-- ==== Sys2Proof/Word.lean ====
section
/-! DEFINITION. The word types of the block: a bus byte, a 32-bit register, a 64-bit quantity. -/

namespace Sys2Proof

/-- One byte of the register space as this model stores it (20_memory.md R45). -/
abbrev Byte := BitVec 8

/-- A 32-bit register: `REG_W = 32` (00_scope.md R8; 20_memory.md R44). -/
abbrev Word := BitVec 32

/-- A 64-bit quantity: a frequency, a time, an address operand (00_scope.md R11, R14). -/
abbrev DWord := BitVec 64

end Sys2Proof
end

