-- ==== Sys2Proof/Config.lean ====
section
/-! DEFINITION. The parameters of the model (00_scope.md R8): the closed sets of variants, fields and slots,
the shape of a configuration, and the free values. Everything the spec leaves `OPEN` is a field of `Config`;
the configuration of the real hardware is `Config.machine`, which has no body. -/

namespace Sys2Proof

/-- The three PLL variants, a closed set (00_scope.md R3). -/
inductive Variant where
  | a | b | c
  deriving DecidableEq, Repr, Inhabited

/-- The seven PLL fields, in the order of their ids 0..6 (30_encoding.md R62). -/
inductive FieldId where
  | pd | dacpd | dsmpd | frac | fbdiv | prediv | postdiv
  deriving DecidableEq, Repr, Inhabited

/-- The three instance slots, `NUM_SLOTS = 3` (00_scope.md R8; 10_state.md R25). -/
inductive SlotId where
  | s0 | s1 | s2
  deriving DecidableEq, Repr, Inhabited

/-- The order of the four bytes of a register in a byte view of the bus: `BUS_ENDIAN` (20_memory.md R45). -/
inductive Endian where
  | little | big
  deriving DecidableEq, Repr, Inhabited

/-- `(OFF, SHIFT, WIDTH)` of one field (42_field_codec.md R77). -/
structure FieldLayout where
  off   : Nat
  shift : Nat
  width : Nat
  deriving DecidableEq, Repr, Inhabited

/-- The layout of the seven fields of one variant (42_field_codec.md R77). -/
structure VariantLayout where
  pd      : FieldLayout
  dacpd   : FieldLayout
  dsmpd   : FieldLayout
  frac    : FieldLayout
  fbdiv   : FieldLayout
  prediv  : FieldLayout
  postdiv : FieldLayout
  deriving DecidableEq, Repr, Inhabited

/-- One value per variant. -/
structure PerVariant (α : Type) where
  a : α
  b : α
  c : α
  deriving DecidableEq, Repr, Inhabited

/-- One value per slot. -/
structure PerSlot (α : Type) where
  s0 : α
  s1 : α
  s2 : α
  deriving DecidableEq, Repr, Inhabited

/-- An entry of a rate table (10_state.md R26; widths 00_scope.md R11). -/
structure RateEntry where
  target      : DWord
  prediv      : Word
  fbdiv       : Word
  postdiv1    : Word
  useFraction : Bool
  frac        : BitVec 24
  deriving DecidableEq, Repr, Inhabited

/-- The parameters of one run (00_scope.md R8, R18): fixed for the run and constant across resets
(70_reset_and_hazards.md R162). `rateTable` is the contents of the rate-table ROM (10_state.md R26). -/
structure Config where
  layout     : PerVariant VariantLayout
  auxMux     : FieldLayout
  selRefDiv2 : Word
  selPllDiv2 : Word
  rateTable  : PerVariant (List RateEntry)
  tableRefHz : PerVariant DWord
  parentRate : PerSlot DWord
  addrW      : Nat
  busEndian  : Endian
  deriving DecidableEq, Repr, Inhabited

/-- `FRAC_BITS` (00_scope.md R8). -/
abbrev fracBits : Nat := 24

/-- `SETTLE_US` (00_scope.md R8; 43_set_rate.md R104). -/
abbrev settleUs : Nat := 100

/-- `MIN_TABLE_LEN` (00_scope.md R8). -/
abbrev minTableLen : Nat := 2

/-- `MAX_TABLE_LEN` (00_scope.md R8). -/
abbrev maxTableLen : Nat := 12

/-- The configuration of the hardware: every `OPEN` parameter of 00_scope.md R8, no value chosen
(notes/assumptions/4.md). -/
opaque Config.machine : Config

/-- Free value: what the register-bus byte at an address holds before anything writes it, one draw per start `n`
(10_state.md R32; 70_reset_and_hazards.md R161; notes/assumptions/5.md). -/
opaque Config.busDraw : Nat → Nat → Byte

/-- Free value: `NOW_US` when the model starts (10_state.md R31, R38; notes/assumptions/7.md). -/
opaque Config.nowAtReset : DWord

/-- Free value: the increment of the `n`th step of the time source that no schedule asks for
(60_exceptions.md R153; notes/assumptions/8.md). -/
opaque Config.timeDraw : Nat → DWord

end Sys2Proof
end

