-- ==== Sys2Proof/Syntax.lean ====
section
/-! DEFINITION. The commands of the block: one constructor per row of spec/opcode_table.json (30_encoding.md R61).
The operands in `ARG0`..`ARG3` are no part of a command word; the latch holds them (10_state.md R24). -/

namespace Sys2Proof

/-- A command. `slot`, `var` and `fld` are the raw fields of the command word (30_encoding.md R59): `slot = 3` and
`fld = 7` are reserved (`Instr.wf`), `var = 3` is a variant outside the closed set, which decodes (R69). -/
inductive Instr where
  /-- `CREATE s, VAR, base[, aux]` (45_instance_create.md R131). -/
  | create (slot var : BitVec 2) (auxp : Bool)
  /-- `FIND_RATE VAR, hz` (41_rate_lookup.md R75). -/
  | findRate (var : BitVec 2)
  /-- `FIELD_LAYOUT VAR, FLD` (42_field_codec.md R85). -/
  | fieldLayout (var : BitVec 2) (fld : BitVec 3)
  /-- `FIELD_EXTRACT VAR, FLD, raw` (42_field_codec.md R86). -/
  | fieldExtract (var : BitVec 2) (fld : BitVec 3)
  /-- `FIELD_INSERT VAR, FLD, raw, val` (42_field_codec.md R87). -/
  | fieldInsert (var : BitVec 2) (fld : BitVec 3)
  /-- `SET_RATE s, hz` (43_set_rate.md R90). -/
  | setRate (slot : BitVec 2)
  /-- `RECALC_RATE s, refhz` (44_recalc_rate.md R113). -/
  | recalcRate (slot : BitVec 2)
  deriving DecidableEq, Repr

end Sys2Proof
end

