-- ==== Sys2Proof/WellFormed.lean ====
section
/-! DEFINITION. Which commands a command word can stand for: the extra conditions of 30_encoding.md R63. -/

namespace Sys2Proof

/-- The extra condition of 30_encoding.md R63 on a command: no reserved slot (3), no reserved field id (7). -/
def Instr.wf : Instr → Bool
  | .create slot _ _     => slot != 3
  | .findRate _          => true
  | .fieldLayout _ fld   => fld != 7
  | .fieldExtract _ fld  => fld != 7
  | .fieldInsert _ fld   => fld != 7
  | .setRate slot        => slot != 3
  | .recalcRate slot     => slot != 3

end Sys2Proof
end

