-- ==== Sys2Proof/Decode.lean ====
section
/-! DEFINITION. The command word: its fields (30_encoding.md R59), the decoder (R61, R63, R69), total on all words and
rejecting by name, and the encoder. -/

namespace Sys2Proof

/-- `OPC = w[3:0]` (30_encoding.md R59). -/
def cmdOpc (w : Word) : BitVec 4 := w.extractLsb' 0 4

/-- `SLOT = w[5:4]` (30_encoding.md R59). -/
def cmdSlot (w : Word) : BitVec 2 := w.extractLsb' 4 2

/-- `VAR = w[7:6]` (30_encoding.md R59). -/
def cmdVar (w : Word) : BitVec 2 := w.extractLsb' 6 2

/-- `FLD = w[10:8]` (30_encoding.md R59). -/
def cmdFld (w : Word) : BitVec 3 := w.extractLsb' 8 3

/-- `AUXP = w[11]` (30_encoding.md R59). -/
def cmdAuxp (w : Word) : Bool := w.getLsbD 11

/-- `RSV = w[31:12]` (30_encoding.md R59). -/
def cmdRsv (w : Word) : BitVec 20 := w.extractLsb' 12 20

/-- Why a word is no command (30_encoding.md R69). The block makes no difference between them: each is
`ILLEGAL_COMMAND`. -/
inductive DecodeError where
  /-- `w[31:12] != 0`. -/
  | reservedBits
  /-- `OPC` is 0x0 or 0x8..0xF. -/
  | reservedOpcode
  /-- A field the opcode does not use is nonzero. -/
  | unusedField
  /-- `SLOT = 3` for `CREATE`, `SET_RATE` or `RECALC_RATE`. -/
  | reservedSlot
  /-- `FLD = 7` for `FIELD_LAYOUT`, `FIELD_EXTRACT` or `FIELD_INSERT`. -/
  | reservedField
  deriving DecidableEq, Repr

/-- The decoding shared by the three codec commands, which use `VAR` and `FLD` (30_encoding.md R61, R69). -/
def decodeCodec (w : Word) (mk : BitVec 2 → BitVec 3 → Instr) : Except DecodeError Instr :=
  if cmdSlot w ≠ 0 ∨ cmdAuxp w then .error .unusedField
  else if cmdFld w = 7 then .error .reservedField
  else .ok (mk (cmdVar w) (cmdFld w))

/-- The decoding shared by the two commands that use `SLOT` alone (30_encoding.md R61, R69). -/
def decodeSlotOnly (w : Word) (mk : BitVec 2 → Instr) : Except DecodeError Instr :=
  if cmdVar w ≠ 0 ∨ cmdFld w ≠ 0 ∨ cmdAuxp w then .error .unusedField
  else if cmdSlot w = 3 then .error .reservedSlot
  else .ok (mk (cmdSlot w))

/-- The decoder (30_encoding.md R61, R63, R68, R69): every word is one command or an illegal command. -/
def decode (w : Word) : Except DecodeError Instr :=
  if cmdRsv w ≠ 0 then .error .reservedBits
  else if cmdOpc w = 0x1 then
    if cmdFld w ≠ 0 then .error .unusedField
    else if cmdSlot w = 3 then .error .reservedSlot
    else .ok (.create (cmdSlot w) (cmdVar w) (cmdAuxp w))
  else if cmdOpc w = 0x2 then
    if cmdSlot w ≠ 0 ∨ cmdFld w ≠ 0 ∨ cmdAuxp w then .error .unusedField
    else .ok (.findRate (cmdVar w))
  else if cmdOpc w = 0x3 then decodeCodec w .fieldLayout
  else if cmdOpc w = 0x4 then decodeCodec w .fieldExtract
  else if cmdOpc w = 0x5 then decodeCodec w .fieldInsert
  else if cmdOpc w = 0x6 then decodeSlotOnly w .setRate
  else if cmdOpc w = 0x7 then decodeSlotOnly w .recalcRate
  else .error .reservedOpcode

/-- A command word from its fields, reserved bits zero (30_encoding.md R59). -/
def cmdWord (opc : BitVec 4) (slot var : BitVec 2) (fld : BitVec 3) (auxp : Bool) : Word :=
  0#20 ++ (BitVec.ofBool auxp ++ (fld ++ (var ++ (slot ++ opc))))

/-- The encoder: the word of a command, every field the opcode does not use 0 (30_encoding.md R61). -/
def encode : Instr → Word
  | .create slot var auxp => cmdWord 0x1 slot var 0 auxp
  | .findRate var         => cmdWord 0x2 0 var 0 false
  | .fieldLayout var fld  => cmdWord 0x3 0 var fld false
  | .fieldExtract var fld => cmdWord 0x4 0 var fld false
  | .fieldInsert var fld  => cmdWord 0x5 0 var fld false
  | .setRate slot         => cmdWord 0x6 slot 0 0 false
  | .recalcRate slot      => cmdWord 0x7 slot 0 0 false

/-- A row of the match and mask table of 30_encoding.md R63: `needsSlot` and `needsFld` say which extra condition
it has. -/
structure OpcodeRow where
  mnemonic  : String
  pattern   : Word
  mask      : Word
  needsSlot : Bool
  needsFld  : Bool
  deriving DecidableEq, Repr

/-- The table of 30_encoding.md R63, row by row. -/
def opcodeRows : List OpcodeRow :=
  [ ⟨"CREATE",        0x00000001, 0xFFFFF70F, true,  false⟩
  , ⟨"FIND_RATE",     0x00000002, 0xFFFFFF3F, false, false⟩
  , ⟨"FIELD_LAYOUT",  0x00000003, 0xFFFFF83F, false, true⟩
  , ⟨"FIELD_EXTRACT", 0x00000004, 0xFFFFF83F, false, true⟩
  , ⟨"FIELD_INSERT",  0x00000005, 0xFFFFF83F, false, true⟩
  , ⟨"SET_RATE",      0x00000006, 0xFFFFFFCF, true,  false⟩
  , ⟨"RECALC_RATE",   0x00000007, 0xFFFFFFCF, true,  false⟩ ]

/-- Row `r` matches word `w`: `w & mask = match` and the extra condition holds (30_encoding.md R63). -/
def OpcodeRow.matchesWord (r : OpcodeRow) (w : Word) : Bool :=
  w &&& r.mask == r.pattern && (!r.needsSlot || cmdSlot w != 3) && (!r.needsFld || cmdFld w != 7)

/-- The mnemonic of a command (30_encoding.md R61). -/
def Instr.mnemonic : Instr → String
  | .create ..       => "CREATE"
  | .findRate ..     => "FIND_RATE"
  | .fieldLayout ..  => "FIELD_LAYOUT"
  | .fieldExtract .. => "FIELD_EXTRACT"
  | .fieldInsert ..  => "FIELD_INSERT"
  | .setRate ..      => "SET_RATE"
  | .recalcRate ..   => "RECALC_RATE"

/-- The command the decoder reads from the command word whose low `nbits` bits are those of `w` and whose other bits
are 0. A command is one 32-bit word (30_encoding.md R60), so there is no byte order to apply. -/
def decodeTableWord (nbits w : Nat) : Option Instr :=
  match decode (BitVec.ofNat 32 (w % 2 ^ nbits)) with
  | .ok i    => some i
  | .error _ => none

end Sys2Proof
end

