-- ==== Sys2Proof/Machine/State.lean ====
section
/-! DEFINITION. The state of the machine, as plain data: every piece of state of 10_state.md, the register bus it drives,
the time source, and the model's own fields (the parameters of the run, the moves of the other agents, a draw counter).
Also the reasons a step can stop, and the machine after reset. -/

namespace Sys2Proof.Machine

/-- The sequencer's program counter `PHASE` (10_state.md R27). -/
inductive Phase where
  | idle | decode | exec
  | srLookup | srPreMux | srPdOn | srWDacpd | srWDsmpd | srWFrac | srWPrediv | srWFbdiv | srWPostdiv
  | srPdOff | srDelay | srPostMux
  | rcRDacpd | rcRDsmpd | rcRPrediv | rcRFbdiv | rcRPostdiv | rcRFrac | rcCompute
  | halted
  deriving DecidableEq, Repr, Inhabited

/-- The command and operand latch `L` (10_state.md R24). -/
structure Latch where
  word : Word
  opc  : BitVec 4
  slot : BitVec 2
  var  : BitVec 2
  fld  : BitVec 3
  auxp : Bool
  arg0 : Word
  arg1 : Word
  arg2 : Word
  arg3 : Word
  deriving DecidableEq, Repr, Inhabited

/-- One instance slot (10_state.md R25). `base` and `aux` hold the 64-bit operand of `CREATE`; the spec's width is
`ADDR_W`, into which `CREATE` checks that they fit (notes/assumptions/18.md). -/
structure Slot where
  valid   : Bool
  variant : Variant
  base    : DWord
  auxp    : Bool
  aux     : DWord
  deriving DecidableEq, Repr, Inhabited

/-- What the bytes of the register bus that nothing has written hold: draw number `n` of the free contents
(10_state.md R32), or one and the same byte everywhere (a start a test states). -/
inductive Fill where
  | draw (n : Nat)
  | const (b : Byte)
  deriving DecidableEq, Repr, Inhabited

/-- The register bus space `BUS` (10_state.md R32), byte by byte: the cells that differ from what an unlisted address
reads as, their addresses strictly rising (`Memory.wf`). -/
structure Memory where
  cells : List Host.Cell
  fill  : Fill
  deriving DecidableEq, Repr, Inhabited

/-- One entry of the bus trace (10_state.md R36). -/
inductive BusEvent where
  | rd (addr : Nat) (value : Word)
  | wr (addr : Nat) (value : Word)
  | hostWr (addr : Nat) (value : Word)
  deriving DecidableEq, Repr, Inhabited

/-- A move the schedule asks for: which agent steps next, and what it does (10_state.md R17; 60_exceptions.md R151,
R153; notes/assumptions/2.md). -/
inductive Move where
  /-- The sequencer takes its turn. -/
  | sequencer
  /-- The host writes an interface register (10_state.md R19). -/
  | hostWrite (off : Nat) (v : Word)
  /-- The host reads an interface register (10_state.md R19). -/
  | hostRead (off : Nat)
  /-- The host writes the register bus, `HostWr(a, v)` (60_exceptions.md R151). -/
  | busWrite (addr : Nat) (v : Word)
  /-- The pseudo-operation `WAIT`: the host reads `STATUS` again and again until `BUSY = 0` (30_encoding.md R71). -/
  | wait
  /-- The turn of the other agents between two reads of a `WAIT` (notes/assumptions/17.md): the sequencer's, or the time
  source's while the sequencer has no step. -/
  | others
  /-- The time source advances `NOW_US` by `d` (60_exceptions.md R153). -/
  | tick (d : Nat)
  /-- The host asserts reset (70_reset_and_hazards.md R159). -/
  | reset
  deriving DecidableEq, Repr, Inhabited

/-- The machine. The fields down to `trace` are the spec's; the last five are the model's own. -/
structure State where
  /-- `ARG0`..`ARG3` (10_state.md R19, R20). -/
  arg0 : Word
  arg1 : Word
  arg2 : Word
  arg3 : Word
  /-- `RES0`..`RES2` (10_state.md R19, R21). -/
  res0 : Word
  res1 : Word
  res2 : Word
  /-- `STATUS.BUSY`, `STATUS.FOUND`, `STATUS.CODE` (10_state.md R22). -/
  busy  : Bool
  found : Bool
  code  : BitVec 4
  /-- `FAULT.FCODE`, `FAULT.FSLOT`, `FAULT.FAULTED` (10_state.md R23). -/
  fcode   : BitVec 4
  fslot   : BitVec 2
  faulted : Bool
  /-- The latch `L` (10_state.md R24). -/
  latch : Latch
  /-- The instance slots `SLOT[0]`..`SLOT[2]` (10_state.md R25). -/
  slots : PerSlot Slot
  /-- `PHASE` (10_state.md R27). -/
  phase : Phase
  /-- The working registers (10_state.md R28). -/
  idx       : BitVec 4
  ref       : DWord
  t0        : DWord
  rbDacpd   : BitVec 1
  rbDsmpd   : BitVec 1
  rbPrediv  : Word
  rbFbdiv   : Word
  rbPostdiv : Word
  rbFrac    : Word
  /-- `NOW_US` (10_state.md R31). -/
  nowUs : DWord
  /-- `BUS` (10_state.md R32, R33, R35). -/
  bus : Memory
  /-- `TRACE`, oldest entry first (10_state.md R36). -/
  trace : List BusEvent
  /-- The parameters of the run (00_scope.md R8; notes/assumptions/4.md). -/
  cfg : Config
  /-- Whether the parameters have been checked, as the model does once before the first step
  (70_reset_and_hazards.md R162; notes/assumptions/3.md). -/
  cfgChecked : Bool
  /-- The moves still asked of the agents (notes/assumptions/2.md). -/
  schedule : List Move
  /-- How many free values of `Config.timeDraw` have been used (notes/assumptions/8.md). -/
  draws : Nat
  /-- What the host's last interface read gave it (notes/assumptions/16.md). -/
  hostData : Word
  deriving DecidableEq, Repr

/-- Why the machine stops with a fault. These are stops of the MODEL: the block's own sticky faults (60_exceptions.md
R142) are next states in which `FAULT` is set. -/
inductive Fault where
  /-- A register-bus access at an address that is not 4-aligned or not below `2^ADDR_W`, which 20_memory.md R42 and
  R43 exclude. Raised by the bus steps of `SET_RATE` and `RECALC_RATE`; no state that keeps `State.Inv` reaches it.
  Safe. -/
  | busAddress
  /-- A rate-table index at or beyond the length of the table, which 20_memory.md R39 excludes. Raised by the `SR_*`
  write steps of `SET_RATE`; no state that keeps `State.Inv` reaches it. Safe. -/
  | romIndex
  /-- A command asked for a step in a phase that has no step of it: `IDLE`, `HALTED`, or a phase of another command
  (10_state.md R27). Raised by every meaning; no state that keeps `State.Inv` reaches it from `step`. Safe. -/
  | noStep
  /-- The time source is asked for its step when `NOW_US` is `2^64 - 1`: the spec gives no step, since `NOW_US` never
  decreases and does not wrap within a run (10_state.md R31). Raised by `State.timePasses`, when no move is asked for. Safe. -/
  | timeExhausted
  deriving DecidableEq, Repr

/-- Why the model has no run, or no move. -/
inductive Refusal where
  /-- An instruction without a meaning; used by the refused arms of `exec` only. Safe. -/
  | notModelled (mnemonic : String)
  /-- The parameters break 42_field_codec.md R78, 41_rate_lookup.md R72 or 00_scope.md R10: the model refuses the
  configuration. Raised by the first step. Safe. -/
  | badConfig
  /-- A host access to the interface that is not 4-aligned or lies above `0x3C`: assumed never (20_memory.md R40;
  60_exceptions.md R151). Unsafe: a claim says nothing of a host that makes it. -/
  | noHostAccess
  /-- A host register-bus write while `BUSY = 1`, to a PLL register of a valid slot, or at an address the bus does not
  have: assumed never (60_exceptions.md R151). Unsafe: a claim says nothing of a host that makes it. -/
  | noHostBusWrite
  /-- A step of the time source by 0, or past `2^64 - 1`: the time source has no such step (60_exceptions.md R153;
  10_state.md R31). Safe. -/
  | noTimeStep
  deriving DecidableEq, Repr

/-- The outcome of a step of this machine. -/
abbrev Result := Host.Outcome State Fault Refusal

/-- The latch after reset: all zero (10_state.md R24). -/
def Latch.zero : Latch :=
  { word := 0, opc := 0, slot := 0, var := 0, fld := 0, auxp := false, arg0 := 0, arg1 := 0, arg2 := 0, arg3 := 0 }

/-- A slot after reset: `VALID = 0` (10_state.md R25). The other fields are unspecified and unobservable while
`VALID = 0`; the values here are the model's (DESIGN CHOICE, notes/assumptions/9.md). -/
def Slot.unbound : Slot := { valid := false, variant := .a, base := 0, auxp := false, aux := 0 }

/-- The machine right after reset (10_state.md R38), for given parameters, time and bus contents: no parameter check
made yet, no move asked for. -/
def State.resetWith (cfg : Config) (now : DWord) (bus : Memory) : State :=
  { arg0 := 0, arg1 := 0, arg2 := 0, arg3 := 0
    res0 := 0, res1 := 0, res2 := 0
    busy := false, found := false, code := 0
    fcode := 0, fslot := 0, faulted := false
    latch := Latch.zero
    slots := { s0 := Slot.unbound, s1 := Slot.unbound, s2 := Slot.unbound }
    phase := .idle
    idx := 0, ref := 0, t0 := 0
    rbDacpd := 0, rbDsmpd := 0, rbPrediv := 0, rbFbdiv := 0, rbPostdiv := 0, rbFrac := 0
    nowUs := now
    bus := bus
    trace := []
    cfg := cfg
    cfgChecked := false
    schedule := []
    draws := 0
    hostData := 0 }

/-- The machine right after reset (10_state.md R38; 70_reset_and_hazards.md R160): the block in `IDLE`, not busy, no slot
bound; the parameters of the hardware, `NOW_US` and the bus contents free values. -/
def State.reset : State :=
  State.resetWith Config.machine Config.nowAtReset { cells := [], fill := .draw 0 }

end Sys2Proof.Machine
end

