-- ==== Sys2Proof/Machine/Codec.lean ====
section
/-! DEFINITION. The field codec: masks, and the two pure functions `extract` and `insert` (42_field_codec.md R77, R81, R82). -/

namespace Sys2Proof.Machine

/-- `((2^WIDTH - 1) << SHIFT)`, a 32-bit value (42_field_codec.md R77). -/
def fieldMask (l : FieldLayout) : Word := BitVec.ofNat 32 ((2 ^ l.width - 1) <<< l.shift)

/-- `extract(raw, mask, shift) = (raw & mask) >> shift` (42_field_codec.md R81). -/
def extractField (raw mask : Word) (shift : Nat) : Word := (raw &&& mask) >>> shift

/-- `insert(raw, mask, shift, val) = (raw & ~mask) | ((val << shift) & mask)` (42_field_codec.md R82). -/
def insertField (raw mask : Word) (shift : Nat) (val : Word) : Word := (raw &&& ~~~mask) ||| ((val <<< shift) &&& mask)

end Sys2Proof.Machine
end

