-- ==== Sys2Proof/Machine/Operands.lean ====
section
/-! DEFINITION. The operand forms: slot, variant and field numbers, 64-bit operands and results in two words
(30_encoding.md R62, R64, R65), and the bus addresses of the fields (42_field_codec.md R80). -/

namespace Sys2Proof

/-- The slot a `SLOT` field names; 3 is reserved (30_encoding.md R59). -/
def SlotId.ofBits (b : BitVec 2) : Option SlotId :=
  if b = 0 then some .s0 else if b = 1 then some .s1 else if b = 2 then some .s2 else none

/-- The variant a `VAR` field names; 3 is outside the closed set (30_encoding.md R59). -/
def Variant.ofBits (b : BitVec 2) : Option Variant :=
  if b = 0 then some .a else if b = 1 then some .b else if b = 2 then some .c else none

/-- The field an `FLD` field names; 7 is reserved (30_encoding.md R62). -/
def FieldId.ofBits (b : BitVec 3) : Option FieldId :=
  if b = 0 then some .pd else if b = 1 then some .dacpd else if b = 2 then some .dsmpd
  else if b = 3 then some .frac else if b = 4 then some .fbdiv else if b = 5 then some .prediv
  else if b = 6 then some .postdiv else none

/-- All seven fields (30_encoding.md R62). -/
def FieldId.all : List FieldId := [.pd, .dacpd, .dsmpd, .frac, .fbdiv, .prediv, .postdiv]

/-- All three variants (00_scope.md R3). -/
def Variant.all : List Variant := [.a, .b, .c]

/-- All three slots (10_state.md R25). -/
def SlotId.all : List SlotId := [.s0, .s1, .s2]

/-- The value of a variant. -/
def PerVariant.get {α : Type} (p : PerVariant α) : Variant → α
  | .a => p.a
  | .b => p.b
  | .c => p.c

/-- The value of a slot. -/
def PerSlot.get {α : Type} (p : PerSlot α) : SlotId → α
  | .s0 => p.s0
  | .s1 => p.s1
  | .s2 => p.s2

/-- The values with that of one slot replaced. -/
def PerSlot.set {α : Type} (p : PerSlot α) (i : SlotId) (x : α) : PerSlot α :=
  match i with
  | .s0 => { p with s0 := x }
  | .s1 => { p with s1 := x }
  | .s2 => { p with s2 := x }

/-- The layout of a field. -/
def VariantLayout.get (l : VariantLayout) : FieldId → FieldLayout
  | .pd      => l.pd
  | .dacpd   => l.dacpd
  | .dsmpd   => l.dsmpd
  | .frac    => l.frac
  | .fbdiv   => l.fbdiv
  | .prediv  => l.prediv
  | .postdiv => l.postdiv

namespace Machine

/-- `W_hi ++ W_lo` (30_encoding.md R65). -/
def join64 (hi lo : Word) : DWord := hi ++ lo

/-- The low word of a 64-bit value (30_encoding.md R65). -/
def lowWord (d : DWord) : Word := d.extractLsb' 0 32

/-- The high word of a 64-bit value (30_encoding.md R65). -/
def highWord (d : DWord) : Word := d.extractLsb' 32 32

/-- `L.ARG1 ++ L.ARG0`: `BASE`, `TARGET` or `REFHZ` (30_encoding.md R64). -/
def Latch.operandLo (l : Latch) : DWord := join64 l.arg1 l.arg0

/-- `L.ARG3 ++ L.ARG2`: `AUX` (30_encoding.md R64). -/
def Latch.operandHi (l : Latch) : DWord := join64 l.arg3 l.arg2

/-- `SLOT[i]` (10_state.md R25). -/
def State.slot (s : State) (i : SlotId) : Slot := s.slots.get i

/-- `LAYOUT[v][f]` (42_field_codec.md R77). -/
def State.layoutOf (s : State) (v : Variant) (f : FieldId) : FieldLayout := (s.cfg.layout.get v).get f

/-- The layout of field `f` of slot `i`: that of the slot's variant (45_instance_create.md R138). -/
def State.slotLayout (s : State) (i : SlotId) (f : FieldId) : FieldLayout := s.layoutOf (s.slot i).variant f

/-- `fa(s, f) = SLOT[s].BASE + LAYOUT[v][f].OFF` (42_field_codec.md R80). -/
def State.fieldAddr (s : State) (i : SlotId) (f : FieldId) : Nat := (s.slot i).base.toNat + (s.slotLayout i f).off

/-- `ma(s) = SLOT[s].AUX + AUX_MUX.OFF` (42_field_codec.md R80). -/
def State.muxAddr (s : State) (i : SlotId) : Nat := (s.slot i).aux.toNat + s.cfg.auxMux.off

/-- The rate table of slot `i`: that of its variant (45_instance_create.md R136). -/
def State.slotTable (s : State) (i : SlotId) : List RateEntry := s.cfg.rateTable.get (s.slot i).variant

end Machine

end Sys2Proof
end

