-- ==== Sys2Proof/Machine/Flags.lean ====
section
/-! DEFINITION. Status codes, fault codes, and the `STATUS` and `FAULT` words made of the flags
(10_state.md R22, R23, R30; 60_exceptions.md R140, R142). -/

namespace Sys2Proof.Machine

/-- The returned statuses (60_exceptions.md R140). -/
inductive StatusCode where
  | ok | unsupportedRate | invalidPllMode | invalidVariant | fieldRange
  deriving DecidableEq, Repr, Inhabited

/-- The number of a returned status (60_exceptions.md R140). -/
def StatusCode.bits : StatusCode → BitVec 4
  | .ok              => 0
  | .unsupportedRate => 1
  | .invalidPllMode  => 2
  | .invalidVariant  => 3
  | .fieldRange      => 4

/-- The sticky faults of the block (60_exceptions.md R142). -/
inductive FaultCode where
  | illegalCommand | noInstance | missingAux | zeroPrediv | arithOverflow | cmdWhileBusy | recreate
  | addressRange | addressAlias
  deriving DecidableEq, Repr, Inhabited

/-- The number of a sticky fault (60_exceptions.md R142). -/
def FaultCode.bits : FaultCode → BitVec 4
  | .illegalCommand => 1
  | .noInstance     => 2
  | .missingAux     => 3
  | .zeroPrediv     => 4
  | .arithOverflow  => 5
  | .cmdWhileBusy   => 6
  | .recreate       => 7
  | .addressRange   => 8
  | .addressAlias   => 9

/-- The `STATUS` register: `BUSY` in bit 0, `FOUND` in bit 1, `CODE` in bits 7:4, the rest 0 (10_state.md R22). -/
def State.statusWord (s : State) : Word := 0#24 ++ (s.code ++ (0#2 ++ (BitVec.ofBool s.found ++ BitVec.ofBool s.busy)))

/-- The `FAULT` register: `FCODE` in bits 3:0, `FSLOT` in bits 5:4, `FAULTED` in bit 31, the rest 0
(10_state.md R23). -/
def State.faultWord (s : State) : Word := BitVec.ofBool s.faulted ++ (0#25 ++ (s.fslot ++ s.fcode))

end Sys2Proof.Machine
end

