-- ==== Sys2Proof/Machine/Memory.lean ====
section
/-! DEFINITION. The register bus as a byte store: reading and writing one byte in canonical form, the byte order, and the
32-bit access (20_memory.md R41 to R45). -/

namespace Sys2Proof.Machine

/-- What an address that no cell lists reads as (10_state.md R32; 70_reset_and_hazards.md R161). -/
def Fill.byteAt : Fill → Nat → Byte
  | .draw n,  a => Config.busDraw n a
  | .const b, _ => b

/-- The byte a list of cells holds at an address, if it lists it. -/
def lookupCell : List Host.Cell → Nat → Option Byte
  | [],           _ => none
  | (k, b) :: cs, a => if k = a then some b else lookupCell cs a

/-- The cells with the one at `a`, if any, taken out. -/
def eraseCell : List Host.Cell → Nat → List Host.Cell
  | [],           _ => []
  | (k, b) :: cs, a => if k = a then cs else (k, b) :: eraseCell cs a

/-- The cells with byte `v` at `a`, in rising order of address. -/
def insertCell : List Host.Cell → Nat → Byte → List Host.Cell
  | [],           a, v => [(a, v)]
  | (k, b) :: cs, a, v =>
    if a < k then (a, v) :: (k, b) :: cs
    else if k = a then (a, v) :: cs
    else (k, b) :: insertCell cs a v

/-- The addresses of the cells rise strictly, all of them at or above `lo`. -/
def risingFrom : Nat → List Host.Cell → Bool
  | _,  []           => true
  | lo, (k, _) :: cs => decide (lo ≤ k) && risingFrom (k + 1) cs

/-- The canonical form: addresses strictly rising, and no cell equal to what an unlisted address reads as. -/
def Memory.wf (m : Memory) : Bool :=
  risingFrom 0 m.cells && m.cells.all fun c => c.2 != m.fill.byteAt c.1

/-- The byte at an address. -/
def Memory.readByte (m : Memory) (a : Nat) : Byte :=
  match lookupCell m.cells a with
  | some b => b
  | none   => m.fill.byteAt a

/-- The memory with byte `v` at `a`; writing what an unlisted address reads as takes the cell out. -/
def Memory.writeByte (m : Memory) (a : Nat) (v : Byte) : Memory :=
  { m with cells := if v = m.fill.byteAt a then eraseCell m.cells a else insertCell m.cells a v }

/-- Byte `i` (0 the least significant) of a register. -/
def byteOf (w : Word) (i : Nat) : Byte := w.extractLsb' (8 * i) 8

/-- The address offset at which byte `i` of a register stands, by the byte order (20_memory.md R45). -/
def laneOf (e : Endian) (i : Nat) : Nat :=
  match e with
  | .little => i
  | .big    => 3 - i

/-- The register at `a`: what `MemRead(a, 4)` returns (20_memory.md R42). -/
def Memory.readWord (m : Memory) (e : Endian) (a : Nat) : Word :=
  m.readByte (a + laneOf e 3) ++ (m.readByte (a + laneOf e 2) ++
    (m.readByte (a + laneOf e 1) ++ m.readByte (a + laneOf e 0)))

/-- The memory with `v` in the register at `a`: what `MemWrite(a, 4, v)` leaves (20_memory.md R43). -/
def Memory.writeWord (m : Memory) (e : Endian) (a : Nat) (v : Word) : Memory :=
  (((m.writeByte (a + laneOf e 0) (byteOf v 0)).writeByte (a + laneOf e 1) (byteOf v 1)).writeByte
    (a + laneOf e 2) (byteOf v 2)).writeByte (a + laneOf e 3) (byteOf v 3)

end Sys2Proof.Machine
end

