-- ==== Sys2Proof/Machine/Ops.lean ====
section
/-! DEFINITION. The shared operations: the register-bus primitives and the two field micro-operations built on them,
completing a command, raising a sticky fault, accepting a command, resetting the block, and the passage of time. -/

namespace Sys2Proof.Machine

/-- The precondition of a register-bus access: 4-aligned and below `2^ADDR_W` (20_memory.md R42, R43). -/
def State.busOk (s : State) (a : Nat) : Bool := a % 4 == 0 && decide (a < 2 ^ s.cfg.addrW)

/-- `BUS[a]` (10_state.md R32). -/
def State.busAt (s : State) (a : Nat) : Word := s.bus.readWord s.cfg.busEndian a

/-- `MemRead(a, 4)`: the value, and the state with the read in `TRACE` (20_memory.md R42). -/
def State.memRead (s : State) (a : Nat) : Word × State :=
  (s.busAt a, { s with trace := s.trace ++ [.rd a (s.busAt a)] })

/-- `MemWrite(a, 4, v)` (20_memory.md R43). -/
def State.memWrite (s : State) (a : Nat) (v : Word) : State :=
  { s with bus := s.bus.writeWord s.cfg.busEndian a v, trace := s.trace ++ [.wr a v] }

/-- A host register-bus write, recorded as `HostWr(a, v)` (10_state.md R36). -/
def State.hostBusWrite (s : State) (a : Nat) (v : Word) : State :=
  { s with bus := s.bus.writeWord s.cfg.busEndian a v, trace := s.trace ++ [.hostWr a v] }

/-- `RMW(a, mask, shift, val)`: both accesses, always (42_field_codec.md R88). -/
def State.rmw (s : State) (a : Nat) (l : FieldLayout) (val : Word) : State :=
  let r := s.memRead a
  r.2.memWrite a (insertField r.1 (fieldMask l) l.shift val)

/-- `FieldRead(a, mask, shift)` (42_field_codec.md R89). -/
def State.fieldRead (s : State) (a : Nat) (l : FieldLayout) : Word × State :=
  let r := s.memRead a
  (extractField r.1 (fieldMask l) l.shift, r.2)

/-- A step that accesses the bus at `a` goes on only if the bus has that register (20_memory.md R42, R43;
notes/assumptions/13.md). -/
def State.onBus (s : State) (a : Nat) (k : State) : Result :=
  if s.busOk a then .next k else .fault .busAddress

/-- One step `RMW(a, …, val); pc <- p` (43_set_rate.md R92 to R105). -/
def State.rmwTo (s : State) (a : Nat) (l : FieldLayout) (val : Word) (p : Phase) : Result :=
  s.onBus a { s.rmw a l val with phase := p }

/-- `finish(code, res)`, with `FOUND` as the command's rule says (10_state.md R29). -/
def State.finish (s : State) (c : StatusCode) (r0 r1 r2 : Word) (found : Bool) : State :=
  { s with code := c.bits, res0 := r0, res1 := r1, res2 := r2, found := found, busy := false, phase := .idle }

/-- A command that ends with a returned error: all results 0, `FOUND = 0` (60_exceptions.md R140). -/
def State.finishError (s : State) (c : StatusCode) : State := s.finish c 0 0 0 false

/-- TAKING AN EXCEPTION: `raise F(info)` (60_exceptions.md R143). The first fault since reset is the one kept; the block
halts. There is no return from it (R146): only `State.resetBlock` leaves `HALTED`. -/
def State.raise (s : State) (f : FaultCode) : State :=
  { s with
    fcode   := if s.faulted then s.fcode else f.bits
    fslot   := if s.faulted then s.fslot else s.latch.slot
    faulted := true
    busy    := true
    phase   := .halted }

/-- Reset of the block (70_reset_and_hazards.md R159, R161): every piece of the block's own state to its reset value.
The bus, the time source and the parameters are not the block's (notes/assumptions/21.md). -/
def State.resetBlock (s : State) : State :=
  { State.resetWith s.cfg s.nowUs s.bus with
    cfgChecked := s.cfgChecked, schedule := s.schedule, draws := s.draws, hostData := s.hostData }

/-- The latch after acceptance of command word `w` (10_state.md R24; 30_encoding.md R66). -/
def State.latchOf (s : State) (w : Word) : Latch :=
  { word := w, opc := cmdOpc w, slot := cmdSlot w, var := cmdVar w, fld := cmdFld w, auxp := cmdAuxp w
    arg0 := s.arg0, arg1 := s.arg1, arg2 := s.arg2, arg3 := s.arg3 }

/-- Command acceptance (30_encoding.md R66). -/
def State.accept (s : State) (w : Word) : State :=
  { s with
    latch := s.latchOf w
    res0 := 0, res1 := 0, res2 := 0
    found := false, code := 0, busy := true
    phase := .decode }

/-- `NOW_US <- NOW_US + d` (60_exceptions.md R153), for a `d` that does not make it wrap (10_state.md R31). -/
def State.advance (s : State) (d : Nat) : State := { s with nowUs := BitVec.ofNat 64 (s.nowUs.toNat + d) }

/-- The time source may step by `d`: `d >= 1`, and `NOW_US` does not wrap (60_exceptions.md R153; 10_state.md R31). -/
def State.canAdvance (s : State) (d : Nat) : Bool := decide (1 ≤ d) && decide (s.nowUs.toNat + d < 2 ^ 64)

/-- A step of the time source that no schedule asks for: by any `d >= 1` that does not make `NOW_US` wrap, `d` a free
value (60_exceptions.md R153; notes/assumptions/8.md). -/
def State.timePasses (s : State) : Result :=
  let room := 2 ^ 64 - 1 - s.nowUs.toNat
  if room = 0 then .fault .timeExhausted
  else .next { s.advance (1 + (Config.timeDraw s.draws).toNat % room) with draws := s.draws + 1 }

/-- `NOW_US >= T0 + SETTLE_US` (43_set_rate.md R104), as naturals: the sum does not wrap. -/
def State.settled (s : State) : Bool := decide (s.t0.toNat + settleUs ≤ s.nowUs.toNat)

/-- A command that makes no bus access: its `DECODE` step, and its `EXEC` step with the effect given
(30_encoding.md R67; 10_state.md R27). -/
def State.decodeThenExec (s : State) (effect : State → State) : Result :=
  match s.phase with
  | .decode => .next { s with phase := .exec }
  | .exec   => .next (effect s)
  | _       => .fault .noStep

/-- A command word whose extra condition fails is illegal: `DECODE` raises `ILLEGAL_COMMAND` (30_encoding.md R67, R69;
notes/assumptions/12.md). -/
def State.illegal (s : State) : Result :=
  match s.phase with
  | .decode => .next (s.raise .illegalCommand)
  | _       => .fault .noStep

end Sys2Proof.Machine
end

