-- ==== Sys2Proof/Machine/RateLookup.lean ====
section
/-! DEFINITION. The exact-match search of a rate table (41_rate_lookup.md R74) and `FIND_RATE` (R75). -/

namespace Sys2Proof.Machine

/-- The index of the first entry from index `i` on whose target is `t` (41_rate_lookup.md R74). -/
def findFrom : Nat → List RateEntry → DWord → Option Nat
  | _, [],      _ => none
  | i, e :: es, t => if e.target = t then some i else findFrom (i + 1) es t

/-- `find(v, t)` on the table of a variant (41_rate_lookup.md R74). -/
def findRate (table : List RateEntry) (t : DWord) : Option Nat := findFrom 0 table t

/-- The `EXEC` step of `FIND_RATE` (41_rate_lookup.md R75). -/
def findRateEffect (var : BitVec 2) (s : State) : State :=
  match Variant.ofBits var with
  | none   => s.finishError .invalidVariant
  | some v =>
    match findRate (s.cfg.rateTable.get v) s.latch.operandLo with
    | some i => s.finish .ok (BitVec.ofNat 32 i) 0 0 true
    | none   => s.finish .ok 0 0 0 false

/-- `FIND_RATE VAR, hz` (41_rate_lookup.md R75). -/
def execFindRate (var : BitVec 2) (s : State) : Result := s.decodeThenExec (findRateEffect var)

end Sys2Proof.Machine
end

