-- ==== Sys2Proof/Machine/Datapath.lean ====
section
/-! DEFINITION. The fixed-point datapath: mode decode, the exact product, the truncating quotient and shift, and the
`RC_COMPUTE` step (44_recalc_rate.md R121 to R125). -/

namespace Sys2Proof.Machine

/-- `num`, exact: `ref * (fbdiv * 2^24 + frac)` (44_recalc_rate.md R122). -/
def recalcNum (ref fbdiv frac : Nat) : Nat := ref * (fbdiv * 2 ^ fracBits + frac)

/-- `recalc(ref, fbdiv, frac, prediv, k)`: divide by `prediv`, then shift by `24 + k` (44_recalc_rate.md R122). -/
def recalc (ref fbdiv frac prediv k : Nat) : Nat := (recalcNum ref fbdiv frac / prediv) >>> (fracBits + k)

/-- The mode bits are both 1 or both 0 (44_recalc_rate.md R121). -/
def modeValid (dacpd dsmpd : BitVec 1) : Bool := (dacpd == 1 && dsmpd == 1) || (dacpd == 0 && dsmpd == 0)

/-- The fractional contribution: the fraction read back in fractional mode, 0 in integer mode (44_recalc_rate.md R121,
R125). -/
def State.fracc (s : State) : Nat := if s.rbDacpd = 0 then s.rbFrac.toNat else 0

/-- The `RC_COMPUTE` step, its checks in the spec's order (44_recalc_rate.md R125). -/
def State.rcCompute (s : State) : State :=
  if !modeValid s.rbDacpd s.rbDsmpd then s.finishError .invalidPllMode
  else if s.rbPrediv = 0 then s.raise .zeroPrediv
  else if 2 ^ 64 ≤ recalcNum s.ref.toNat s.rbFbdiv.toNat s.fracc then s.raise .arithOverflow
  else
    let rate := BitVec.ofNat 64 (recalc s.ref.toNat s.rbFbdiv.toNat s.fracc s.rbPrediv.toNat s.rbPostdiv.toNat)
    s.finish .ok (lowWord rate) (highWord rate) 0 false

end Sys2Proof.Machine
end

