-- ==== Sys2Proof/Machine/RecalcRate.lean ====
section
/-! DEFINITION. `RECALC_RATE`, and the recalc phases it shares with the tail of `SET_RATE`
(44_recalc_rate.md R113 to R130; 43_set_rate.md R106). -/

namespace Sys2Proof.Machine

/-- The `DECODE` step of a command on an instance: `NO_INSTANCE` on an unbound slot (30_encoding.md R67). -/
def State.decodeBound (s : State) (i : SlotId) (next : State) : State :=
  if (s.slot i).valid then next else s.raise .noInstance

/-- One read-back step: `FieldRead` of field `f` of slot `i`, the value into the working register that `put` names
(44_recalc_rate.md R114 to R120). -/
def State.readBack (s : State) (i : SlotId) (f : FieldId) (put : Word → State → State) : Result :=
  let r := s.fieldRead (s.fieldAddr i f) (s.slotLayout i f)
  s.onBus (s.fieldAddr i f) (put r.1 r.2)

/-- The recalc phases (44_recalc_rate.md R115 to R120, R125). -/
def State.recalcStep (s : State) (i : SlotId) : Result :=
  match s.phase with
  | .rcRDacpd   => s.readBack i .dacpd fun v t => { t with rbDacpd := v.setWidth 1, phase := .rcRDsmpd }
  | .rcRDsmpd   => s.readBack i .dsmpd fun v t => { t with rbDsmpd := v.setWidth 1, phase := .rcRPrediv }
  | .rcRPrediv  => s.readBack i .prediv fun v t => { t with rbPrediv := v, phase := .rcRFbdiv }
  | .rcRFbdiv   => s.readBack i .fbdiv fun v t => { t with rbFbdiv := v, phase := .rcRPostdiv }
  | .rcRPostdiv => s.readBack i .postdiv fun v t => { t with rbPostdiv := v, phase := .rcRFrac }
  | .rcRFrac    => s.readBack i .frac fun v t => { t with rbFrac := v, phase := .rcCompute }
  | .rcCompute  => .next s.rcCompute
  | _           => .fault .noStep

/-- `RECALC_RATE s, refhz` (44_recalc_rate.md R113; its `DECODE` step, 30_encoding.md R67). -/
def execRecalcRate (slot : BitVec 2) (s : State) : Result :=
  match SlotId.ofBits slot with
  | none   => s.illegal
  | some i =>
    match s.phase with
    | .decode => .next (s.decodeBound i { s with ref := s.latch.operandLo, phase := .rcRDacpd })
    | _       => s.recalcStep i

end Sys2Proof.Machine
end

