-- ==== Sys2Proof/Machine/SetRate.lean ====
section
/-! DEFINITION. `SET_RATE` and its sequencer program (43_set_rate.md R90 to R106). -/

namespace Sys2Proof.Machine

/-- `e = RATE_TABLE[v][IDX]` for slot `i` (43_set_rate.md, introduction). -/
def State.entry (s : State) (i : SlotId) : Option RateEntry := (s.slotTable i)[s.idx.toNat]?

/-- The fraction an entry programs: `e.FRAC` if `e.USE_FRACTION = 1`, else 0 (43_set_rate.md R94). -/
def entryFrac (e : RateEntry) : BitVec 24 := if e.useFraction then e.frac else 0

/-- `k = log2(e.POSTDIV1)` (43_set_rate.md R94). -/
def entryShift (e : RateEntry) : Nat := Nat.log2 e.postdiv1.toNat

/-- The value `SET_RATE` leaves in each field for an entry (43_set_rate.md R94, R95); `PD` ends de-asserted (R103). -/
def entryValue (e : RateEntry) : FieldId → Word
  | .pd      => 0
  | .dacpd   => if e.useFraction then 0 else 1
  | .dsmpd   => if e.useFraction then 0 else 1
  | .frac    => (entryFrac e).setWidth 32
  | .fbdiv   => e.fbdiv
  | .prediv  => e.prediv
  | .postdiv => BitVec.ofNat 32 (entryShift e)

/-- `SR_LOOKUP` (43_set_rate.md R91). -/
def State.srLookup (s : State) (i : SlotId) : State :=
  match findRate (s.slotTable i) s.latch.operandLo with
  | none   => s.finishError .unsupportedRate
  | some n =>
    if (s.slot i).variant = .b ∧ ¬ (s.slot i).auxp then s.raise .missingAux
    else { s with
      idx   := BitVec.ofNat 4 n
      phase := if (s.slot i).variant = .b then .srPreMux else .srPdOn }

/-- One step `RMW` of the mux field of slot `i` (43_set_rate.md R92, R105). -/
def State.writeMux (s : State) (i : SlotId) (sel : Word) : State := s.rmw (s.muxAddr i) s.cfg.auxMux sel

/-- One step `RMW` of field `f` of slot `i` with `val`, then phase `p` (43_set_rate.md R93, R96 to R101). -/
def State.writeField (s : State) (i : SlotId) (f : FieldId) (val : Word) (p : Phase) : Result :=
  s.rmwTo (s.fieldAddr i f) (s.slotLayout i f) val p

/-- One step `RMW` of field `f` of slot `i` with the value of the entry at `IDX`, then phase `p`
(43_set_rate.md R94, R96 to R101). -/
def State.writeEntryField (s : State) (i : SlotId) (f : FieldId) (p : Phase) : Result :=
  match s.entry i with
  | none   => .fault .romIndex
  | some e => s.writeField i f (entryValue e f) p

/-- `SR_PD_OFF` (43_set_rate.md R103). -/
def State.srPdOff (s : State) (i : SlotId) : Result :=
  let t := s.rmw (s.fieldAddr i .pd) (s.slotLayout i .pd) 0
  s.onBus (s.fieldAddr i .pd)
    (if (s.slot i).variant = .b then { t with t0 := s.nowUs, phase := .srDelay }
     else { t with ref := s.cfg.parentRate.get i, phase := .rcRDacpd })

/-- `SR_DELAY` (43_set_rate.md R104): no bus access; the step is enabled once the settling wait is over, until then the
command spins where it is. -/
def State.srDelay (s : State) : State := if s.settled then { s with phase := .srPostMux } else s

/-- `SR_POST_MUX` (43_set_rate.md R105). -/
def State.srPostMux (s : State) (i : SlotId) : Result :=
  s.onBus (s.muxAddr i)
    { s.writeMux i s.cfg.selPllDiv2 with ref := s.cfg.parentRate.get i, phase := .rcRDacpd }

/-- `SET_RATE s, hz` (43_set_rate.md R90; its `DECODE` step, 30_encoding.md R67; its recalc tail, R106). -/
def execSetRate (slot : BitVec 2) (s : State) : Result :=
  match SlotId.ofBits slot with
  | none   => s.illegal
  | some i =>
    match s.phase with
    | .decode    => .next (s.decodeBound i { s with phase := .srLookup })
    | .srLookup  => .next (s.srLookup i)
    | .srPreMux  => s.onBus (s.muxAddr i) { s.writeMux i s.cfg.selRefDiv2 with phase := .srPdOn }
    | .srPdOn    => s.writeField i .pd 1 .srWDacpd
    | .srWDacpd  => s.writeEntryField i .dacpd .srWDsmpd
    | .srWDsmpd  => s.writeEntryField i .dsmpd .srWFrac
    | .srWFrac   => s.writeEntryField i .frac .srWPrediv
    | .srWPrediv => s.writeEntryField i .prediv .srWFbdiv
    | .srWFbdiv  => s.writeEntryField i .fbdiv .srWPostdiv
    | .srWPostdiv => s.writeEntryField i .postdiv .srPdOff
    | .srPdOff   => s.srPdOff i
    | .srDelay   => .next s.srDelay
    | .srPostMux => s.srPostMux i
    | _          => s.recalcStep i

end Sys2Proof.Machine
end

