-- ==== Sys2Proof/Machine/ConfigCheck.lean ====
section
/-! DEFINITION. The configuration check, made once before the first step (70_reset_and_hazards.md R162):
42_field_codec.md R78, 41_rate_lookup.md R72, 00_scope.md R10. -/

namespace Sys2Proof.Machine

/-- The width a field must have: 1 for `PD`, `DACPD`, `DSMPD`, 24 for `FRAC`, at least 1 for the rest
(42_field_codec.md R78 item 1). -/
def widthOk (f : FieldId) (width : Nat) : Bool :=
  match f with
  | .pd      => width == 1
  | .dacpd   => width == 1
  | .dsmpd   => width == 1
  | .frac    => width == 24
  | .fbdiv   => decide (1 ≤ width)
  | .prediv  => decide (1 ≤ width)
  | .postdiv => decide (1 ≤ width)

/-- A field lies inside one register, at an aligned 32-bit offset (42_field_codec.md R78 items 2, 3, 5). -/
def FieldLayout.placed (l : FieldLayout) : Bool :=
  decide (l.shift + l.width ≤ 32) && l.off % 4 == 0 && decide (l.off < 2 ^ 32)

/-- Two fields share no bit: different registers, or disjoint masks (42_field_codec.md R78 item 4). -/
def FieldLayout.apart (l m : FieldLayout) : Bool := l.off != m.off || fieldMask l &&& fieldMask m == 0

/-- 42_field_codec.md R78 items 1 to 4, for one variant. -/
def VariantLayout.wf (l : VariantLayout) : Bool :=
  FieldId.all.all (fun f => widthOk f (l.get f).width && FieldLayout.placed (l.get f))
    && FieldId.all.all fun f => FieldId.all.all fun g => f == g || FieldLayout.apart (l.get f) (l.get g)

/-- 42_field_codec.md R78 item 5, with item 3 for the mux. -/
def Config.muxOk (c : Config) : Bool :=
  FieldLayout.placed c.auxMux && decide (1 ≤ c.auxMux.width) && c.selRefDiv2 != c.selPllDiv2
    && decide (c.selRefDiv2.toNat < 2 ^ c.auxMux.width) && decide (c.selPllDiv2.toNat < 2 ^ c.auxMux.width)

/-- 41_rate_lookup.md R72 items 3 to 7, for one entry of a table with reference `ref` and the variant's layout.
The second part of item 6, `FRAC < 2^24`, is the width of the field. -/
def RateEntry.wf (l : VariantLayout) (ref : DWord) (e : RateEntry) : Bool :=
  decide (1 ≤ e.prediv.toNat) && decide (e.prediv.toNat < 2 ^ l.prediv.width)
    && decide (e.fbdiv.toNat < 2 ^ l.fbdiv.width)
    && e.postdiv1.toNat == 2 ^ entryShift e && decide (entryShift e < 2 ^ l.postdiv.width)
    && (e.useFraction || e.frac == 0)
    && decide (recalcNum ref.toNat e.fbdiv.toNat (entryFrac e).toNat < 2 ^ 64)
    && recalc ref.toNat e.fbdiv.toNat (entryFrac e).toNat e.prediv.toNat (entryShift e) == e.target.toNat

/-- The targets of a table are pairwise distinct (41_rate_lookup.md R72 item 2). -/
def targetsDistinct : List RateEntry → Bool
  | []      => true
  | e :: es => es.all (fun x => x.target != e.target) && targetsDistinct es

/-- 41_rate_lookup.md R72, for the table of one variant. -/
def Config.tableOk (c : Config) (v : Variant) : Bool :=
  let t := c.rateTable.get v
  decide (minTableLen ≤ t.length) && decide (t.length ≤ maxTableLen) && targetsDistinct t
    && t.all (RateEntry.wf (c.layout.get v) (c.tableRefHz.get v))

/-- The tables contain the members the source gives (00_scope.md R10): variant A's entry in integer mode; variant C's
in either mode with `frac = 0`. -/
def Config.knownMembers (c : Config) : Bool :=
  c.rateTable.a.any (fun e => e.target == 1250000000 && e.prediv == 12 && e.fbdiv == 625 && e.postdiv1 == 1
      && !e.useFraction)
    && c.rateTable.c.any (fun e => e.target == 1188000000 && e.prediv == 2 && e.fbdiv == 99 && e.postdiv1 == 1
      && e.frac == 0)

/-- The configuration is one the model has runs for (42_field_codec.md R78; 41_rate_lookup.md R72; 00_scope.md R10). -/
def Config.wf (c : Config) : Bool :=
  Variant.all.all (fun v => VariantLayout.wf (c.layout.get v)) && Config.muxOk c
    && Variant.all.all (Config.tableOk c) && Config.knownMembers c

/-- The check the model makes once, before the first step (70_reset_and_hazards.md R162). -/
def State.checkConfig (s : State) : Result :=
  if Config.wf s.cfg then .next { s with cfgChecked := true } else .refused .badConfig

end Sys2Proof.Machine
end

