-- ==== Sys2Proof/Machine/Create.lean ====
section
/-! DEFINITION. `CREATE`: binding an instance slot (45_instance_create.md R131 to R137). -/

namespace Sys2Proof.Machine

/-- `R(v, base)`: the register addresses an instance owns (45_instance_create.md R135). -/
def State.regAddrs (s : State) (v : Variant) (base : DWord) : List Nat :=
  FieldId.all.map fun f => base.toNat + (s.layoutOf v f).off

/-- `M(auxp, aux)`: the mux register address, if there is an aux block (45_instance_create.md R135). -/
def State.muxAddrs (s : State) (auxp : Bool) (aux : DWord) : List Nat :=
  if auxp then [aux.toNat + s.cfg.auxMux.off] else []

/-- `addr_ok(v, base, auxp, aux)` (45_instance_create.md R134). -/
def State.addrOk (s : State) (v : Variant) (base : DWord) (auxp : Bool) (aux : DWord) : Bool :=
  base.toNat % 4 == 0
    && FieldId.all.all (fun f => decide (base.toNat + (s.layoutOf v f).off < 2 ^ s.cfg.addrW))
    && (!auxp || (aux.toNat % 4 == 0 && decide (aux.toNat + s.cfg.auxMux.off < 2 ^ s.cfg.addrW)))

/-- Two sets of addresses meet. -/
def meets (xs ys : List Nat) : Bool := xs.any fun x => ys.any fun y => x == y

/-- `aliases(s, v, base, auxp, aux)` for slot `i` (45_instance_create.md R135). -/
def State.aliases (s : State) (i : SlotId) (v : Variant) (base : DWord) (auxp : Bool) (aux : DWord) : Bool :=
  meets (s.muxAddrs auxp aux) (s.regAddrs v base)
    || SlotId.all.any fun t =>
      t != i && (s.slot t).valid
        && (base == (s.slot t).base
          || meets (s.regAddrs v base) (s.regAddrs (s.slot t).variant (s.slot t).base)
          || meets (s.regAddrs v base) (s.muxAddrs (s.slot t).auxp (s.slot t).aux)
          || meets (s.muxAddrs auxp aux) (s.regAddrs (s.slot t).variant (s.slot t).base))

/-- `SLOT[i] <- { VALID: 1, VARIANT: v, BASE: base, AUXP: auxp, AUX: aux or 0 }` (45_instance_create.md R131). -/
def State.bind (s : State) (i : SlotId) (v : Variant) (base : DWord) (auxp : Bool) (aux : DWord) : State :=
  let bound : Slot := { valid := true, variant := v, base := base, auxp := auxp, aux := if auxp then aux else 0 }
  { s with slots := s.slots.set i bound }

/-- The `EXEC` step of `CREATE`, its checks in the spec's order (45_instance_create.md R131). -/
def createEffect (i : SlotId) (var : BitVec 2) (auxp : Bool) (s : State) : State :=
  match Variant.ofBits var with
  | none   => s.finishError .invalidVariant
  | some v =>
    if (s.slot i).valid then s.raise .recreate
    else if !s.addrOk v s.latch.operandLo auxp s.latch.operandHi then s.raise .addressRange
    else if s.aliases i v s.latch.operandLo auxp s.latch.operandHi then s.raise .addressAlias
    else (s.bind i v s.latch.operandLo auxp s.latch.operandHi).finish .ok 0 0 0 false

/-- `CREATE s, VAR, base[, aux]` (45_instance_create.md R131). -/
def execCreate (slot var : BitVec 2) (auxp : Bool) (s : State) : Result :=
  match SlotId.ofBits slot with
  | none   => s.illegal
  | some i => s.decodeThenExec (createEffect i var auxp)

end Sys2Proof.Machine
end

