-- ==== Sys2Proof/Machine/FieldCommands.lean ====
section
/-! DEFINITION. The three codec commands (42_field_codec.md R84 to R87). None of them accesses the bus. -/

namespace Sys2Proof.Machine

/-- The `EXEC` step of a codec command: `INVALID_VARIANT` for `VAR = 3` (42_field_codec.md R84), else the effect on the
field's layout. -/
def codecEffect (var : BitVec 2) (f : FieldId) (effect : FieldLayout → State → State) (s : State) : State :=
  match Variant.ofBits var with
  | none   => s.finishError .invalidVariant
  | some v => effect (s.layoutOf v f) s

/-- `FIELD_LAYOUT` on a layout: `OFF`, `MASK` and `SHIFT` (42_field_codec.md R85). -/
def layoutEffect (l : FieldLayout) (s : State) : State :=
  s.finish .ok (BitVec.ofNat 32 l.off) (fieldMask l) (BitVec.ofNat 32 l.shift) false

/-- `FIELD_EXTRACT` on a layout (42_field_codec.md R86). -/
def extractEffect (l : FieldLayout) (s : State) : State :=
  s.finish .ok (extractField s.latch.arg0 (fieldMask l) l.shift) 0 0 false

/-- `FIELD_INSERT` on a layout: `FIELD_RANGE` for a value that does not fit (42_field_codec.md R87). -/
def insertEffect (l : FieldLayout) (s : State) : State :=
  if 2 ^ l.width ≤ s.latch.arg1.toNat then s.finishError .fieldRange
  else s.finish .ok (insertField s.latch.arg0 (fieldMask l) l.shift s.latch.arg1) 0 0 false

/-- `FIELD_LAYOUT VAR, FLD` (42_field_codec.md R85). -/
def execFieldLayout (var : BitVec 2) (fld : BitVec 3) (s : State) : Result :=
  match FieldId.ofBits fld with
  | none   => s.illegal
  | some f => s.decodeThenExec (codecEffect var f layoutEffect)

/-- `FIELD_EXTRACT VAR, FLD, raw` (42_field_codec.md R86). -/
def execFieldExtract (var : BitVec 2) (fld : BitVec 3) (s : State) : Result :=
  match FieldId.ofBits fld with
  | none   => s.illegal
  | some f => s.decodeThenExec (codecEffect var f extractEffect)

/-- `FIELD_INSERT VAR, FLD, raw, val` (42_field_codec.md R87). -/
def execFieldInsert (var : BitVec 2) (fld : BitVec 3) (s : State) : Result :=
  match FieldId.ofBits fld with
  | none   => s.illegal
  | some f => s.decodeThenExec (codecEffect var f insertEffect)

end Sys2Proof.Machine
end

