-- ==== Sys2Proof/Machine/Dispatch.lean ====
section
/-! DEFINITION. One step of a command: the meaning of each constructor of `Instr` in the phase the state is in. -/

namespace Sys2Proof.Machine

def exec (i : Instr) (s : State) : Host.Outcome State Fault Refusal :=
  match i with
  | .create slot var auxp => Sys2Proof.Machine.execCreate slot var auxp s
  | .findRate var => Sys2Proof.Machine.execFindRate var s
  | .fieldLayout var fld => Sys2Proof.Machine.execFieldLayout var fld s
  | .fieldExtract var fld => Sys2Proof.Machine.execFieldExtract var fld s
  | .fieldInsert var fld => Sys2Proof.Machine.execFieldInsert var fld s
  | .setRate slot => Sys2Proof.Machine.execSetRate slot s
  | .recalcRate slot => Sys2Proof.Machine.execRecalcRate slot s

end Sys2Proof.Machine
end

