-- ==== Sys2Proof/Machine/HostPort.lean ====
section
/-! DEFINITION. What the host can do: interface reads and writes (10_state.md R19, R20), command acceptance and
`CMD_WHILE_BUSY` (30_encoding.md R66; 60_exceptions.md R144), register-bus writes (R151), and the time source's step (R153). -/

namespace Sys2Proof.Machine

/-- A host access to the interface is a 32-bit access at a 4-aligned offset in `0x00..0x3C` (20_memory.md R40). -/
def ifaceOk (off : Nat) : Bool := off % 4 == 0 && decide (off ≤ 0x3C)

/-- What a host read of the interface returns: `CMD` and the reserved offsets read 0 (10_state.md R19). -/
def State.ifaceRead (s : State) (off : Nat) : Word :=
  if off = 0x04 then s.arg0
  else if off = 0x08 then s.arg1
  else if off = 0x0C then s.arg2
  else if off = 0x10 then s.arg3
  else if off = 0x14 then s.res0
  else if off = 0x18 then s.res1
  else if off = 0x1C then s.res2
  else if off = 0x20 then s.statusWord
  else if off = 0x24 then s.faultWord
  else 0

/-- A host write of `CMD`: acceptance when `BUSY = 0` (30_encoding.md R66), else `CMD_WHILE_BUSY` in the host's step
(60_exceptions.md R144). -/
def State.writeCmd (s : State) (w : Word) : State := if s.busy then s.raise .cmdWhileBusy else s.accept w

/-- A host write of the interface: `ARG0`..`ARG3` are storage, read-only and reserved offsets ignore it
(10_state.md R19, R20). -/
def State.ifaceWrite (s : State) (off : Nat) (v : Word) : State :=
  if off = 0x00 then s.writeCmd v
  else if off = 0x04 then { s with arg0 := v }
  else if off = 0x08 then { s with arg1 := v }
  else if off = 0x0C then { s with arg2 := v }
  else if off = 0x10 then { s with arg3 := v }
  else s

/-- `a` is in no valid slot's PLL register set (60_exceptions.md R151; 45_instance_create.md R135). -/
def State.notPllReg (s : State) (a : Nat) : Bool :=
  SlotId.all.all fun t => !((s.slot t).valid && (s.regAddrs (s.slot t).variant (s.slot t).base).contains a)

/-- The host may write the register bus at `a`: not busy, an address the bus has, no PLL register of a valid slot
(60_exceptions.md R151; 20_memory.md R43, R54). -/
def State.mayBusWrite (s : State) (a : Nat) : Bool := !s.busy && s.busOk a && s.notPllReg a

/-- A scheduled interface write. -/
def State.moveHostWrite (s : State) (off : Nat) (v : Word) : Result :=
  if ifaceOk off then .next (s.ifaceWrite off v) else .refused .noHostAccess

/-- A scheduled interface read: the value goes to the host, and the block does not change. -/
def State.moveHostRead (s : State) (off : Nat) : Result :=
  if ifaceOk off then .next { s with hostData := s.ifaceRead off } else .refused .noHostAccess

/-- One host read of `STATUS` of a `WAIT` (30_encoding.md R71), `s` the state with the `WAIT` taken off the schedule: while it
finds `BUSY = 1` the other agents get a turn and the `WAIT` goes on, else it ends (notes/assumptions/17.md). -/
def State.movePoll (s : State) : State :=
  { s with
    hostData := s.ifaceRead 0x20
    schedule := if s.busy then .others :: .wait :: s.schedule else s.schedule }

/-- A scheduled host register-bus write. -/
def State.moveBusWrite (s : State) (a : Nat) (v : Word) : Result :=
  if s.mayBusWrite a then .next (s.hostBusWrite a v) else .refused .noHostBusWrite

/-- A scheduled step of the time source. -/
def State.moveTick (s : State) (d : Nat) : Result :=
  if s.canAdvance d then .next (s.advance d) else .refused .noTimeStep

end Sys2Proof.Machine
end

