-- ==== Sys2Proof/Machine/Sequencer.lean ====
section
/-! DEFINITION. One step of the machine: the sequencer's turn, which decodes the latched word and runs the command, and
the interleaving of the agents (10_state.md R17; 20_memory.md R52, R53; 60_exceptions.md R145). -/

namespace Sys2Proof.Machine

/-- The sequencer has a step: a command runs, and it does not wait (10_state.md R27; 43_set_rate.md R104;
60_exceptions.md R143, R154). -/
def State.seqEnabled (s : State) : Bool :=
  match s.phase with
  | .idle    => false
  | .halted  => false
  | .srDelay => s.settled
  | _        => true

/-- The sequencer's step: the command that `L.WORD` is, in the phase it is in; an illegal word raises
`ILLEGAL_COMMAND` in `DECODE` (30_encoding.md R67). -/
def State.seqStep (s : State) : Result :=
  match decode s.latch.word with
  | .ok i    => exec i s
  | .error _ => s.illegal

/-- The step no schedule asks for: the sequencer's if it has one, else the time source's (notes/assumptions/2.md). -/
def State.autoStep (s : State) : Result := if s.seqEnabled then s.seqStep else s.timePasses

/-- The other agents' turn while the host waits: the sequencer's step if it has one, else the time source's if `NOW_US` has
room for one; where neither has a step, the host reads on (30_encoding.md R71; notes/assumptions/17.md). -/
def State.othersStep (s : State) : Result :=
  if s.seqEnabled then s.seqStep
  else if s.canAdvance 1 then s.timePasses
  else .next s

/-- A scheduled move, `s` the state with the move taken off the schedule. A turn given to a sequencer that has no step
changes nothing (notes/assumptions/24.md). -/
def State.runMove (s : State) : Move → Result
  | .sequencer       => if s.seqEnabled then s.seqStep else .next s
  | .hostWrite off v => s.moveHostWrite off v
  | .hostRead off    => s.moveHostRead off
  | .busWrite a v    => s.moveBusWrite a v
  | .wait            => .next s.movePoll
  | .others          => s.othersStep
  | .tick d          => s.moveTick d
  | .reset           => .next s.resetBlock

/-- The next step of whichever agent moves: the next move asked for, or else the step nobody asks for. -/
def State.agentStep (s : State) : Result :=
  match s.schedule with
  | []      => s.autoStep
  | m :: ms => State.runMove { s with schedule := ms } m

/-- The first step checks the parameters (70_reset_and_hazards.md R162); every later one is an agent's. -/
def State.machineStep (s : State) : Result := if s.cfgChecked then s.agentStep else s.checkConfig

/-- `s` with command word `w` accepted (30_encoding.md R66) and its `DECODE` step next: the parameters taken as
checked, and the sequencer's turn put before any other move. -/
def State.withCommand (s : State) (w : Word) : State :=
  { s.accept w with
    cfgChecked := true
    schedule   := match s.schedule with
      | [] => []
      | ms => .sequencer :: ms }

end Sys2Proof.Machine
end

