-- ==== Sys2Proof/Machine/Step.lean ====
section
/-! DEFINITION. The step of the machine, and where the host places a command for it to run. -/

namespace Sys2Proof.Machine

/-- One step: one host access, one sequencer micro-operation, or one passage of time (00_scope.md R7). -/
def step (s : State) : Host.Outcome State Fault Refusal := s.machineStep

/-- `s` with the command word whose low `nbits` bits are those of `w` accepted, so that the next step is its `DECODE` step
(30_encoding.md R60, R66; notes/assumptions/3.md). -/
def State.withFetchWord (s : State) (nbits w : Nat) : State := s.withCommand (BitVec.ofNat 32 (w % 2 ^ nbits))

end Sys2Proof.Machine
end

