-- ==== Sys2Proof/Machine/Program.lean ====
section
/-! DEFINITION. A host program: the assembler syntax of 30_encoding.md R70 and its expansion into host accesses (R71). -/

namespace Sys2Proof.Machine

/-- One line of a host program (30_encoding.md R70), with the two further pseudo-operations of R71. -/
inductive Line where
  | create (slot var : BitVec 2) (base : DWord)
  | createAux (slot var : BitVec 2) (base aux : DWord)
  | findRate (var : BitVec 2) (hz : DWord)
  | fieldLayout (var : BitVec 2) (fld : BitVec 3)
  | fieldExtract (var : BitVec 2) (fld : BitVec 3) (raw : Word)
  | fieldInsert (var : BitVec 2) (fld : BitVec 3) (raw val : Word)
  | setRate (slot : BitVec 2) (hz : DWord)
  | recalcRate (slot : BitVec 2) (refhz : DWord)
  | hostWr (addr : Nat) (v : Word)
  | wait
  deriving DecidableEq, Repr

/-- A 64-bit operand in two `ARG` writes, low word first (30_encoding.md R71). -/
def argPair (off : Nat) (d : DWord) : List Move := [.hostWrite off (lowWord d), .hostWrite (off + 4) (highWord d)]

/-- The `CMD` write of a command, then `WAIT` (30_encoding.md R71). -/
def issue (i : Instr) : List Move := [.hostWrite 0x00 (encode i), .wait]

/-- The host accesses a line expands to, in order (30_encoding.md R71). -/
def Line.expand : Line → List Move
  | .create slot var base        => argPair 0x04 base ++ issue (.create slot var false)
  | .createAux slot var base aux => argPair 0x04 base ++ argPair 0x0C aux ++ issue (.create slot var true)
  | .findRate var hz             => argPair 0x04 hz ++ issue (.findRate var)
  | .fieldLayout var fld         => issue (.fieldLayout var fld)
  | .fieldExtract var fld raw    => .hostWrite 0x04 raw :: issue (.fieldExtract var fld)
  | .fieldInsert var fld raw val => .hostWrite 0x04 raw :: .hostWrite 0x08 val :: issue (.fieldInsert var fld)
  | .setRate slot hz             => argPair 0x04 hz ++ issue (.setRate slot)
  | .recalcRate slot refhz       => argPair 0x04 refhz ++ issue (.recalcRate slot)
  | .hostWr a v                  => [.busWrite a v]
  | .wait                        => [.wait]

/-- The machine with a host program to run, after the moves already asked for (notes/assumptions/3.md). -/
def State.load (s : State) (p : List Line) : State :=
  { s with schedule := s.schedule ++ (p.map Line.expand).flatten }

end Sys2Proof.Machine
end

