-- ==== Sys2Proof/Safety.lean ====
section
/-! DEFINITION. The terms in which statements speak of states and runs: the command that runs, the value of a field on the
bus, the conditions on the parameters, the invariant of the machine, and how far a `SET_RATE` has come. -/

namespace Sys2Proof.Machine

/-- The command that `L.WORD` is, if it is one (30_encoding.md R67). -/
def State.command (s : State) : Option Instr :=
  match decode s.latch.word with
  | .ok i    => some i
  | .error _ => none

/-- The slot of the instance command that `L.WORD` is (`SET_RATE` if `set`, else `RECALC_RATE`). -/
def State.commandSlot (s : State) (set : Bool) : Option SlotId :=
  match s.command with
  | some (.setRate slot)    => if set then SlotId.ofBits slot else none
  | some (.recalcRate slot) => if set then none else SlotId.ofBits slot
  | _                       => none

/-- The value of field `f` of slot `i` in the registers of the bus (10_state.md R33; 42_field_codec.md R80, R81). -/
def State.fieldVal (s : State) (i : SlotId) (f : FieldId) : Word :=
  extractField (s.busAt (s.fieldAddr i f)) (fieldMask (s.slotLayout i f)) (s.slotLayout i f).shift

/-- The value of the bus-clock mux field of slot `i` (10_state.md R35). -/
def State.muxVal (s : State) (i : SlotId) : Word :=
  extractField (s.busAt (s.muxAddr i)) (fieldMask s.cfg.auxMux) s.cfg.auxMux.shift

/-- Byte address `b` lies in the register at `a`. -/
def inRegister (a b : Nat) : Prop := a ≤ b ∧ b < a + 4

/-- No other agent is asked to move, and the parameters are checked: every step is the sequencer's or, while it has none,
the time source's. -/
def State.alone (s : State) : Prop := s.cfgChecked = true ∧ s.schedule = []

/-- Bit `j` is a bit of the field (42_field_codec.md R77). -/
def FieldLayout.holdsBit (l : FieldLayout) (j : Nat) : Prop := l.shift ≤ j ∧ j < l.shift + l.width

/-- The conditions of 42_field_codec.md R78 on `LAYOUT` and `AUX_MUX`, in the rule's own terms. -/
structure Config.LayoutRules (c : Config) : Prop where
  /-- Item 1: the three one-bit fields, the fraction, and the three numbers. -/
  oneBit : ∀ v, ∀ f ∈ [FieldId.pd, .dacpd, .dsmpd], ((c.layout.get v).get f).width = 1
  fracWidth : ∀ v, ((c.layout.get v).get .frac).width = 24
  numberWidth : ∀ v, ∀ f ∈ [FieldId.fbdiv, .prediv, .postdiv], 1 ≤ ((c.layout.get v).get f).width
  /-- Item 2: each field lies inside one register. -/
  inside : ∀ v f, ((c.layout.get v).get f).shift + ((c.layout.get v).get f).width ≤ 32
  /-- Item 3. -/
  offset : ∀ v f, ((c.layout.get v).get f).off % 4 = 0 ∧ ((c.layout.get v).get f).off < 2 ^ 32
  muxOffset : c.auxMux.off % 4 = 0 ∧ c.auxMux.off < 2 ^ 32
  /-- Item 4: two fields of one variant in one register share no bit. -/
  apart : ∀ v f g, f ≠ g → ((c.layout.get v).get f).off = ((c.layout.get v).get g).off →
    ∀ j, ¬ (FieldLayout.holdsBit ((c.layout.get v).get f) j ∧ FieldLayout.holdsBit ((c.layout.get v).get g) j)
  /-- Item 5. -/
  mux : 1 ≤ c.auxMux.width ∧ c.auxMux.shift + c.auxMux.width ≤ 32 ∧ c.selRefDiv2 ≠ c.selPllDiv2 ∧
    c.selRefDiv2.toNat < 2 ^ c.auxMux.width ∧ c.selPllDiv2.toNat < 2 ^ c.auxMux.width

/-- The conditions of 41_rate_lookup.md R72, items 3 to 7, on one entry of variant `v`'s table, in the rule's own terms.
The second part of item 6, `FRAC < 2^24`, is the width of the field. -/
structure Config.EntryRules (c : Config) (v : Variant) (e : RateEntry) : Prop where
  /-- Item 3. -/
  prediv : 1 ≤ e.prediv.toNat ∧ e.prediv.toNat < 2 ^ ((c.layout.get v).get .prediv).width
  /-- Item 4. -/
  fbdiv : e.fbdiv.toNat < 2 ^ ((c.layout.get v).get .fbdiv).width
  /-- Item 6. -/
  frac : e.useFraction = false → e.frac = 0
  /-- Items 5 and 7: the post-divider is `2^k`, and the frequency these dividers give at the table's reference, the
  rational truncated once (44_recalc_rate.md R122), is the target, without overflow. -/
  roundTrip : ∃ k, e.postdiv1.toNat = 2 ^ k ∧ k < 2 ^ ((c.layout.get v).get .postdiv).width ∧
    (c.tableRefHz.get v).toNat * (e.fbdiv.toNat * 2 ^ 24 + if e.useFraction then e.frac.toNat else 0) < 2 ^ 64 ∧
    (c.tableRefHz.get v).toNat * (e.fbdiv.toNat * 2 ^ 24 + if e.useFraction then e.frac.toNat else 0) /
      (e.prediv.toNat * 2 ^ (24 + k)) = e.target.toNat

/-- The conditions of 41_rate_lookup.md R72 on the three rate tables, in the rule's own terms. -/
structure Config.TableRules (c : Config) : Prop where
  /-- Item 1. -/
  length : ∀ v, 2 ≤ (c.rateTable.get v).length ∧ (c.rateTable.get v).length ≤ 12
  /-- Item 2. -/
  distinct : ∀ (v : Variant) (m n : Nat) (d e : RateEntry), (c.rateTable.get v)[m]? = some d →
    (c.rateTable.get v)[n]? = some e → d.target = e.target → m = n
  /-- Items 3 to 7. -/
  entries : ∀ v, ∀ e ∈ c.rateTable.get v, Config.EntryRules c v e

/-- The tables contain the members of 00_scope.md R10: variant A's in integer mode, variant C's with fraction 0
(notes/assumptions/19.md). -/
structure Config.HasKnownMembers (c : Config) : Prop where
  a : ∃ e ∈ c.rateTable.get .a, e.target = 1250000000 ∧ e.prediv = 12 ∧ e.fbdiv = 625 ∧ e.postdiv1 = 1 ∧
    e.useFraction = false
  c : ∃ e ∈ c.rateTable.get .c, e.target = 1188000000 ∧ e.prediv = 2 ∧ e.fbdiv = 99 ∧ e.postdiv1 = 1 ∧ e.frac = 0

/-- A run of one command has ended well: `BUSY = 0` (70_reset_and_hazards.md R164). -/
def State.ended (s : State) : Prop := s.busy = false ∧ s.phase = .idle

/-- A run has ended faulted (70_reset_and_hazards.md R164). -/
def State.endedFaulted (s : State) : Prop := s.faulted = true

/-- What of a trace entry does not depend on the bus contents: read or write, and the address. -/
def BusEvent.shape : BusEvent → Bool × Nat
  | .rd a _     => (false, a)
  | .wr a _     => (true, a)
  | .hostWr a _ => (true, a)

/-- The two accesses of an `RMW` (42_field_codec.md R88), by shape. -/
def rmwShape (a : Nat) : List (Bool × Nat) := [(false, a), (true, a)]

/-- The six fields `SET_RATE` programs, in the order it writes them (43_set_rate.md R102). -/
def writeOrder : List FieldId := [.dacpd, .dsmpd, .frac, .prediv, .fbdiv, .postdiv]

/-- The six fields the recalc reads, in the order it reads them (44_recalc_rate.md R114). -/
def readOrder : List FieldId := [.dacpd, .dsmpd, .prediv, .fbdiv, .postdiv, .frac]

/-- The shape of the six reads of a recalc (44_recalc_rate.md R114). -/
def State.recalcShape (s : State) (i : SlotId) : List (Bool × Nat) := readOrder.map fun f => (false, s.fieldAddr i f)

/-- The shape of the eight `RMW`s of the power-down bracket (43_set_rate.md R108, lines 2 to 9). -/
def State.bracketShape (s : State) (i : SlotId) : List (Bool × Nat) :=
  rmwShape (s.fieldAddr i .pd) ++ (writeOrder.map fun f => rmwShape (s.fieldAddr i f)).flatten
    ++ rmwShape (s.fieldAddr i .pd)

/-- The register the `SET_RATE` step of the present phase writes, if it writes one (43_set_rate.md R108). -/
def State.storeAddr (s : State) (i : SlotId) : Option Nat :=
  match s.phase with
  | .srPreMux   => some (s.muxAddr i)
  | .srPdOn     => some (s.fieldAddr i .pd)
  | .srWDacpd   => some (s.fieldAddr i .dacpd)
  | .srWDsmpd   => some (s.fieldAddr i .dsmpd)
  | .srWFrac    => some (s.fieldAddr i .frac)
  | .srWPrediv  => some (s.fieldAddr i .prediv)
  | .srWFbdiv   => some (s.fieldAddr i .fbdiv)
  | .srWPostdiv => some (s.fieldAddr i .postdiv)
  | .srPdOff    => some (s.fieldAddr i .pd)
  | .srPostMux  => some (s.muxAddr i)
  | _           => none

/-- Addresses of an instance to be bound fit the bus (45_instance_create.md R134): aligned bases, every register below
`2^ADDR_W`. -/
def State.addressesFit (s : State) (v : Variant) (base : DWord) (auxp : Bool) (aux : DWord) : Prop :=
  base.toNat % 4 = 0 ∧ (∀ f, base.toNat + (s.layoutOf v f).off < 2 ^ s.cfg.addrW) ∧
    (auxp = true → aux.toNat % 4 = 0 ∧ aux.toNat + s.cfg.auxMux.off < 2 ^ s.cfg.addrW)

/-- Addresses of an instance to be bound to slot `i` meet its own mux or another bound slot (45_instance_create.md
R135). -/
def State.addressesCollide (s : State) (i : SlotId) (v : Variant) (base : DWord) (auxp : Bool) (aux : DWord) : Prop :=
  (auxp = true ∧ ∃ f, aux.toNat + s.cfg.auxMux.off = base.toNat + (s.layoutOf v f).off) ∨
    ∃ j, j ≠ i ∧ (s.slot j).valid = true ∧
      (base = (s.slot j).base ∨
        (∃ f g, base.toNat + (s.layoutOf v f).off = s.fieldAddr j g) ∨
        ((s.slot j).auxp = true ∧ ∃ f, base.toNat + (s.layoutOf v f).off = s.muxAddr j) ∨
        (auxp = true ∧ ∃ g, aux.toNat + s.cfg.auxMux.off = s.fieldAddr j g))

/-- The place of a phase in the program of `SET_RATE` (43_set_rate.md R90); 0 outside it. -/
def Phase.rank : Phase → Nat
  | .srLookup => 1 | .srPreMux => 2 | .srPdOn => 3 | .srWDacpd => 4 | .srWDsmpd => 5 | .srWFrac => 6
  | .srWPrediv => 7 | .srWFbdiv => 8 | .srWPostdiv => 9 | .srPdOff => 10 | .srDelay => 11 | .srPostMux => 12
  | .rcRDacpd => 13 | .rcRDsmpd => 14 | .rcRPrediv => 15 | .rcRFbdiv => 16 | .rcRPostdiv => 17 | .rcRFrac => 18
  | .rcCompute => 19
  | .idle => 0 | .decode => 0 | .exec => 0 | .halted => 0

/-- The last phase in which a field does not yet hold the entry's value (43_set_rate.md R96 to R103). -/
def writeRank : FieldId → Nat
  | .dacpd => 4 | .dsmpd => 5 | .frac => 6 | .prediv => 7 | .fbdiv => 8 | .postdiv => 9 | .pd => 10

/-- The last phase in which a field is not yet read back (44_recalc_rate.md R115 to R120); `PD` never is. -/
def readRank : FieldId → Nat
  | .dacpd => 13 | .dsmpd => 14 | .prediv => 15 | .fbdiv => 16 | .postdiv => 17 | .frac => 18 | .pd => 19

/-- The working register a field is read back into, as 32 bits (10_state.md R28); 0 for `PD`, which is not read. -/
def State.readBackOf (s : State) : FieldId → Word
  | .dacpd   => s.rbDacpd.setWidth 32
  | .dsmpd   => s.rbDsmpd.setWidth 32
  | .prediv  => s.rbPrediv
  | .fbdiv   => s.rbFbdiv
  | .postdiv => s.rbPostdiv
  | .frac    => s.rbFrac
  | .pd      => 0

/-- The latch fields are the fields of the latched word (30_encoding.md R66). -/
def State.latchOk (s : State) : Bool :=
  s.latch.opc == cmdOpc s.latch.word && s.latch.slot == cmdSlot s.latch.word && s.latch.var == cmdVar s.latch.word
    && s.latch.fld == cmdFld s.latch.word && s.latch.auxp == cmdAuxp s.latch.word

/-- `BUSY` is 0 exactly in `IDLE`, and a fault is recorded exactly in `HALTED` (10_state.md R22, R23, R29;
60_exceptions.md R143). -/
def State.controlOk (s : State) : Bool :=
  s.busy == (s.phase != .idle) && s.faulted == (s.phase == .halted)

/-- The codes are codes the spec gives, and `FAULT` is 0 while no fault is recorded (10_state.md R22, R23;
60_exceptions.md R140, R142). -/
def State.codesOk (s : State) : Bool :=
  decide (s.code.toNat ≤ 4) && decide (s.fcode.toNat ≤ 9)
    && (if s.faulted then s.fcode != 0 else s.fcode == 0 && s.fslot == 0)

/-- A bound slot has an address for every field and for its mux, and they do not meet (45_instance_create.md R134, R135).
An unused `AUX` is 0 (R131). -/
def State.slotPlaced (s : State) (i : SlotId) : Bool :=
  !(s.slot i).valid
    || (s.addrOk (s.slot i).variant (s.slot i).base (s.slot i).auxp (s.slot i).aux
      && !meets (s.muxAddrs (s.slot i).auxp (s.slot i).aux) (s.regAddrs (s.slot i).variant (s.slot i).base)
      && ((s.slot i).auxp || (s.slot i).aux == 0))

/-- Two bound slots share no PLL register (45_instance_create.md R135). -/
def State.slotsApart (s : State) (i j : SlotId) : Bool :=
  i == j || !(s.slot i).valid || !(s.slot j).valid
    || ((s.slot i).base != (s.slot j).base
      && !meets (s.regAddrs (s.slot i).variant (s.slot i).base) (s.regAddrs (s.slot j).variant (s.slot j).base)
      && !meets (s.regAddrs (s.slot i).variant (s.slot i).base) (s.muxAddrs (s.slot j).auxp (s.slot j).aux))

/-- Every bound slot is placed, and any two are apart. -/
def State.slotsOk (s : State) : Bool :=
  SlotId.all.all (fun i => s.slotPlaced i) && SlotId.all.all fun i => SlotId.all.all fun j => s.slotsApart i j

/-- The instance that a command in an `SR_*` phase after `SR_LOOKUP`, or in the recalc tail of `SET_RATE`, works on is
bound, has an aux block if it is of variant B, and the entry at `IDX` is the one asked for (43_set_rate.md R91). -/
def State.setRateOn (s : State) (i : SlotId) : Bool :=
  (s.slot i).valid && ((s.slot i).variant != .b || (s.slot i).auxp)
    && match s.entry i with
      | some e => e.target == s.latch.operandLo
      | none   => false

/-- The phase belongs to the command that `L.WORD` is (10_state.md R27), on an instance that is bound
(30_encoding.md R67). -/
def State.phaseOk (s : State) : Bool :=
  match s.phase with
  | .idle | .decode | .halted => true
  | .exec =>
    match s.command with
    | some (.create ..) | some (.findRate ..) | some (.fieldLayout ..) | some (.fieldExtract ..)
    | some (.fieldInsert ..) => true
    | _ => false
  | .srLookup =>
    match s.commandSlot true with
    | some i => (s.slot i).valid
    | none   => false
  | .srPreMux | .srDelay | .srPostMux =>
    match s.commandSlot true with
    | some i => s.setRateOn i && (s.slot i).variant == .b
    | none   => false
  | .srPdOn | .srWDacpd | .srWDsmpd | .srWFrac | .srWPrediv | .srWFbdiv | .srWPostdiv | .srPdOff =>
    match s.commandSlot true with
    | some i => s.setRateOn i
    | none   => false
  | .rcRDacpd | .rcRDsmpd | .rcRPrediv | .rcRFbdiv | .rcRPostdiv | .rcRFrac | .rcCompute =>
    match s.commandSlot true, s.commandSlot false with
    | some i, _    => s.setRateOn i
    | none, some i => (s.slot i).valid
    | none, none   => false

/-- Once checked, the parameters are well formed; and nothing runs before the check (70_reset_and_hazards.md R162). -/
def State.cfgOk (s : State) : Bool := if s.cfgChecked then Config.wf s.cfg else s.phase == .idle

/-- The invariant of the machine: what every state that a run reaches satisfies. -/
structure State.Inv (s : State) : Prop where
  bus     : s.bus.wf = true
  latch   : s.latchOk = true
  control : s.controlOk = true
  codes   : s.codesOk = true
  slots   : s.slotsOk = true
  phase   : s.phaseOk = true
  cfg     : s.cfgOk = true

/-- How far a `SET_RATE` on slot `i` has come: `PD` holds 1 from after its assertion to its de-assertion and 0 from then
on; each field holds the entry's value once written, each working register once read back; the settling wait is over at
`SR_POST_MUX`; `REF` is the parent rate in the recalc tail (43_set_rate.md R93 to R106, R110). -/
def State.setRateProgress (s : State) (i : SlotId) (e : RateEntry) : Bool :=
  (!(decide (4 ≤ s.phase.rank) && decide (s.phase.rank ≤ 10)) || s.fieldVal i .pd == 1)
    && FieldId.all.all (fun f => decide (s.phase.rank ≤ writeRank f) || s.fieldVal i f == entryValue e f)
    && FieldId.all.all (fun f => decide (s.phase.rank ≤ readRank f) || s.readBackOf f == entryValue e f)
    && (s.phase != .srPostMux || s.settled)
    && (decide (s.phase.rank < 13) || s.ref == s.cfg.parentRate.get i)

/-- `setRateProgress` for the `SET_RATE` that runs, if one does and its entry is found. -/
def State.progressOk (s : State) : Bool :=
  match s.commandSlot true with
  | none   => true
  | some i =>
    decide (s.phase.rank ≤ 1) || match s.entry i with
      | none   => true
      | some e => s.setRateProgress i e

end Sys2Proof.Machine
end

