-- ==== Sys2Proof/Certificates/Slice0/Obligations.lean ====
section
/-! DEFINITION. The statements for the provers. `run n s` of the host's interface is `n` steps of the machine. Where a statement
rests on a choice of the model and not on a rule of the spec, its docstring says so and names the log entry. -/

open Sys2Proof Sys2Proof.Machine

/-! ## Encoding -/

/-- Decoding the word of a well-formed command gives the command back, with every operand (30_encoding.md R59, R61, R63). -/
def Obligations.DecodeOfEncodeGivesTheCommand : Prop :=
  ∀ i : Instr, i.wf = true → decode (encode i) = .ok i

/-- A word that decodes has no other spelling: it is the encoding of the command it decodes to, and that command is
well formed. -/
def Obligations.DecodedWordEncodesBack : Prop :=
  ∀ (w : Word) (i : Instr), decode w = .ok i → encode i = w ∧ i.wf = true

/-- 30_encoding.md R63 and R68: a word is a command exactly when a row of the match and mask table matches it; the row that
matches names the command; no two rows match one word. -/
def Obligations.WordIsACommandWhenARowMatches : Prop :=
  (∀ w : Word, (∃ i, decode w = .ok i) ↔ ∃ r ∈ opcodeRows, r.matchesWord w = true) ∧
  (∀ (w : Word) (i : Instr), decode w = .ok i →
    ∃ r ∈ opcodeRows, r.matchesWord w = true ∧ r.mnemonic = i.mnemonic) ∧
  (∀ (w : Word), ∀ r ∈ opcodeRows, ∀ r' ∈ opcodeRows,
    r.matchesWord w = true → r'.matchesWord w = true → r = r')

/-- 30_encoding.md R69: the decoder refuses exactly the words the rule lists, the fields taken out of the word as
numbers; `VAR = 3` is no reason to refuse. -/
def Obligations.IllegalWordsAreTheListedOnes : Prop :=
  ∀ w : Word,
    let opc := w.toNat % 16
    let slot := w.toNat / 16 % 4
    let var := w.toNat / 64 % 4
    let fld := w.toNat / 256 % 8
    let auxp := w.toNat / 2048 % 2
    let rsv := w.toNat / 4096
    (∃ e, decode w = .error e) ↔
      (opc = 0 ∨ 8 ≤ opc) ∨ rsv ≠ 0 ∨
      (opc = 1 ∧ (fld ≠ 0 ∨ slot = 3)) ∨
      (opc = 2 ∧ (slot ≠ 0 ∨ fld ≠ 0 ∨ auxp ≠ 0)) ∨
      ((opc = 3 ∨ opc = 4 ∨ opc = 5) ∧ (slot ≠ 0 ∨ auxp ≠ 0 ∨ fld = 7)) ∨
      ((opc = 6 ∨ opc = 7) ∧ (var ≠ 0 ∨ fld ≠ 0 ∨ auxp ≠ 0 ∨ slot = 3))

/-- A few words of 95_test_vectors.md section 3.1 and of the programs of its section 4, and the commands they are. -/
def Obligations.SampleWordsDecode : Prop :=
  decode 0x00000851 = .ok (.create 1 1 true) ∧ decode 0x000000C1 = .ok (.create 0 3 false) ∧
  decode 0x00000082 = .ok (.findRate 2) ∧ decode 0x00000403 = .ok (.fieldLayout 0 4) ∧
  decode 0x00000305 = .ok (.fieldInsert 0 3) ∧ decode 0x00000026 = .ok (.setRate 2) ∧
  decode 0x00000027 = .ok (.recalcRate 2) ∧ decode 0x00000703 = .error .reservedField ∧
  decode 0x00000031 = .error .reservedSlot

/-! ## Steps, acceptance, faults, reset -/

/-- A step of the sequencer runs the command that the latched word is: when no move is asked for, when the schedule gives the
sequencer its turn (which is taken off the schedule), and while the host waits, after the host's read of `STATUS`. That the
sequencer steps by default, and between two reads of a waiting host, is the model's choice (notes/assumptions/2.md, 17.md). -/
def Obligations.StepRunsTheLatchedCommand : Prop :=
  ∀ (s : State) (i : Instr) (ms : List Move),
    s.cfgChecked = true → s.seqEnabled = true → decode s.latch.word = .ok i →
    (s.schedule = [] → step s = exec i s) ∧
    (∀ m ∈ [Move.sequencer, .others], s.schedule = m :: ms → step s = exec i { s with schedule := ms }) ∧
    (s.schedule = .wait :: ms → s.busy = true →
      let u : State := { s with hostData := s.statusWord, schedule := .others :: .wait :: ms }
      step s = .next u ∧ step u = exec i { u with schedule := .wait :: ms })

/-- A command word placed by `withFetchWord` is what the very next step runs, from any state that asks for no move, and the
state it runs from is that of command acceptance. This is the model's interface (notes/assumptions/3.md). -/
def Obligations.PlacedWordRunsNext : Prop :=
  ∀ (s : State) (w : Nat) (i : Instr), s.schedule = [] → w < 2 ^ 32 → decode (BitVec.ofNat 32 w) = .ok i →
    step (s.withFetchWord 32 w) = exec i (s.withFetchWord 32 w) ∧
    (s.withFetchWord 32 w) = { s.accept (BitVec.ofNat 32 w) with cfgChecked := true }

/-- 30_encoding.md R67, first line: in `DECODE`, a word that is no command raises `ILLEGAL_COMMAND` (fault code 1), and the
sequencer's step changes nothing else: when no move is asked for, when the schedule gives the sequencer its turn (which is
taken off the schedule), and while the host waits, after the host's read of `STATUS`. Which agent steps when is the model's
choice (notes/assumptions/2.md, 17.md). -/
def Obligations.IllegalWordRaisesInDecode : Prop :=
  ∀ (s : State) (e : DecodeError) (ms : List Move),
    s.cfgChecked = true → s.phase = .decode → decode s.latch.word = .error e →
    let illegal (r : State) : State := { r with
      fcode := if r.faulted then r.fcode else 1
      fslot := if r.faulted then r.fslot else r.latch.slot
      faulted := true, busy := true, phase := .halted }
    (s.schedule = [] → step s = .next (illegal s)) ∧
    (∀ m ∈ [Move.sequencer, .others], s.schedule = m :: ms → step s = .next (illegal { s with schedule := ms })) ∧
    (s.schedule = .wait :: ms → s.busy = true →
      let u : State := { s with hostData := s.statusWord, schedule := .others :: .wait :: ms }
      step s = .next u ∧ step u = .next (illegal { u with schedule := .wait :: ms }))

/-- 30_encoding.md R67: the `DECODE` step of each command. The five commands without bus access go to `EXEC`; `SET_RATE`
goes to `SR_LOOKUP` and `RECALC_RATE`, its operand in `REF`, to `RC_R_DACPD`, if the slot is bound; on an unbound slot both
raise `NO_INSTANCE` (fault code 2). -/
def Obligations.DecodeStepDispatches : Prop :=
  ∀ (s : State), s.phase = .decode →
    (∀ (i : Instr), i.wf = true → (∀ slot, i ≠ .setRate slot ∧ i ≠ .recalcRate slot) →
      exec i s = .next { s with phase := .exec }) ∧
    (∀ (slot : BitVec 2) (i : SlotId), SlotId.ofBits slot = some i → (s.slot i).valid = true →
      exec (.setRate slot) s = .next { s with phase := .srLookup } ∧
      exec (.recalcRate slot) s =
        .next { s with ref := (s.latch.arg1 ++ s.latch.arg0 : DWord), phase := .rcRDacpd }) ∧
    (∀ (slot : BitVec 2) (i : SlotId), SlotId.ofBits slot = some i → (s.slot i).valid = false →
      ∀ c ∈ [Instr.setRate slot, Instr.recalcRate slot],
        exec c s = .next { s with
          fcode := if s.faulted then s.fcode else 2
          fslot := if s.faulted then s.fslot else s.latch.slot
          faulted := true, busy := true, phase := .halted })

/-- 30_encoding.md R66: a host write of `CMD` while `BUSY = 0` latches the word, its fields and the four operand words,
clears the results and the status, and starts `DECODE`, in one step. While `BUSY = 1` the word is not accepted: the latch and
the results stay, and `CMD_WHILE_BUSY` is raised (fault code 6, if it is the first fault). -/
def Obligations.CommandWriteIsAccepted : Prop :=
  ∀ (s : State) (w : Word) (ms : List Move), s.cfgChecked = true → s.schedule = .hostWrite 0x00 w :: ms →
    (s.busy = false → step s = .next { s with
      schedule := ms
      latch := { word := w, opc := w.extractLsb' 0 4, slot := w.extractLsb' 4 2, var := w.extractLsb' 6 2
                 fld := w.extractLsb' 8 3, auxp := w.getLsbD 11
                 arg0 := s.arg0, arg1 := s.arg1, arg2 := s.arg2, arg3 := s.arg3 }
      res0 := 0, res1 := 0, res2 := 0, found := false, code := 0, busy := true, phase := .decode }) ∧
    (s.busy = true → ∃ t, step s = .next t ∧ t.latch = s.latch ∧ t.res0 = s.res0 ∧ t.res1 = s.res1 ∧ t.res2 = s.res2 ∧
      t.faulted = true ∧ t.phase = .halted ∧ (s.faulted = false → t.fcode = 6))

/-- 60_exceptions.md R144: a host write of `CMD` while `BUSY = 1` raises `CMD_WHILE_BUSY` (fault code 6) in the host's step,
and the command that ran takes no other step: the block is halted, and its sequencer has no step. -/
def Obligations.CommandWriteWhileBusyFaults : Prop :=
  ∀ (s : State) (w : Word) (ms : List Move), s.cfgChecked = true → s.schedule = .hostWrite 0x00 w :: ms →
    s.busy = true →
    ∃ t, step s = .next t ∧ t.seqEnabled = false ∧ t = { s with
      schedule := ms
      fcode := if s.faulted then s.fcode else 6
      fslot := if s.faulted then s.fslot else s.latch.slot
      faulted := true, busy := true, phase := .halted }

/-- 60_exceptions.md R143 and R147: in `HALTED` the sequencer has no step, and no step but a reset changes the phase, `BUSY`, `FAULT`, the results, the
slots, the bus or the trace; the host still reads every interface register and writes `ARG0`..`ARG3`. -/
def Obligations.HaltedUntilReset : Prop :=
  ∀ (s : State), s.phase = .halted → s.busy = true → s.faulted = true → s.cfgChecked = true →
    s.seqEnabled = false ∧
    (∀ t, s.schedule.head? ≠ some .reset → step s = .next t →
      t.phase = .halted ∧ t.busy = true ∧ t.faulted = true ∧ t.fcode = s.fcode ∧ t.fslot = s.fslot ∧
      t.res0 = s.res0 ∧ t.res1 = s.res1 ∧ t.res2 = s.res2 ∧ t.found = s.found ∧ t.code = s.code ∧
      t.slots = s.slots ∧ t.bus = s.bus ∧ t.trace = s.trace) ∧
    (∀ off ms, s.schedule = .hostRead off :: ms → off % 4 = 0 → off ≤ 0x3C →
      step s = .next { s with schedule := ms, hostData := s.ifaceRead off }) ∧
    (∀ v ms, s.schedule = .hostWrite 0x04 v :: ms → step s = .next { s with schedule := ms, arg0 := v }) ∧
    (∀ v ms, s.schedule = .hostWrite 0x08 v :: ms → step s = .next { s with schedule := ms, arg1 := v }) ∧
    (∀ v ms, s.schedule = .hostWrite 0x0C v :: ms → step s = .next { s with schedule := ms, arg2 := v }) ∧
    (∀ v ms, s.schedule = .hostWrite 0x10 v :: ms → step s = .next { s with schedule := ms, arg3 := v })

/-- 60_exceptions.md R145, R147: the first fault since reset is the one `FAULT` keeps, whatever steps follow, until a reset.
It holds of every state, also of one no run reaches. -/
def Obligations.FirstFaultIsKept : Prop :=
  ∀ (s t : State), s.faulted = true → s.schedule.head? ≠ some .reset → step s = .next t →
    t.faulted = true ∧ t.fcode = s.fcode ∧ t.fslot = s.fslot

/-- 70_reset_and_hazards.md R159, R161: reset, whatever the block does, puts the block's state to its reset values in one
step, so that the sequencer has no step and makes no further access, and leaves the register bus and the parameters (R162) as
they are. That it leaves the time and the moves still asked for as they are is read from the spec by inference, the model's
own (notes/assumptions/7.md, 21.md). The slot fields other than `VALID` are left out: they are unspecified
(notes/assumptions/9.md). -/
def Obligations.ResetRestoresTheBlock : Prop :=
  ∀ (s : State) (ms : List Move), s.cfgChecked = true → s.schedule = .reset :: ms →
    ∃ t, step s = .next t ∧ t.seqEnabled = false ∧
      t.phase = .idle ∧ t.statusWord = 0 ∧ t.faultWord = 0 ∧
      t.arg0 = 0 ∧ t.arg1 = 0 ∧ t.arg2 = 0 ∧ t.arg3 = 0 ∧ t.res0 = 0 ∧ t.res1 = 0 ∧ t.res2 = 0 ∧
      t.latch = Latch.zero ∧ (∀ i, (t.slot i).valid = false) ∧
      t.idx = 0 ∧ t.ref = 0 ∧ t.t0 = 0 ∧ t.rbDacpd = 0 ∧ t.rbDsmpd = 0 ∧ t.rbPrediv = 0 ∧ t.rbFbdiv = 0 ∧
      t.rbPostdiv = 0 ∧ t.rbFrac = 0 ∧ t.trace = [] ∧
      t.bus = s.bus ∧ t.nowUs = s.nowUs ∧ t.cfg = s.cfg ∧ t.schedule = ms

/-- 10_state.md R38, 70_reset_and_hazards.md R160: the state after reset. The bus contents and `NOW_US` are free values and
the parameters open ones, so nothing is said of them. -/
def Obligations.ResetStateIsIdle : Prop :=
  State.reset.phase = .idle ∧ State.reset.statusWord = 0 ∧ State.reset.faultWord = 0 ∧
  (∀ i, (State.reset.slot i).valid = false) ∧ State.reset.latch = Latch.zero ∧
  State.reset.arg0 = 0 ∧ State.reset.arg1 = 0 ∧ State.reset.arg2 = 0 ∧ State.reset.arg3 = 0 ∧
  State.reset.res0 = 0 ∧ State.reset.res1 = 0 ∧ State.reset.res2 = 0 ∧
  State.reset.idx = 0 ∧ State.reset.ref = 0 ∧ State.reset.t0 = 0 ∧ State.reset.trace = [] ∧
  State.reset.bus.cells = []

/-- The first step checks the parameters: it goes on, changing nothing else, exactly if they meet the conditions of
42_field_codec.md R78 and 41_rate_lookup.md R72 and the tables contain the members of 00_scope.md R10, and refuses them otherwise.
The conditions are spelt out in the rules' own terms (`Config.LayoutRules`, `Config.TableRules`, `Config.EntryRules`,
`Config.HasKnownMembers`), not by the check the step makes. That the check is a step of its own is the model's choice
(notes/assumptions/3.md, 25.md); that R10 is one of the conditions is the model's inference (notes/assumptions/19.md), and so is
that there is no other (notes/assumptions/27.md). -/
def Obligations.FirstStepChecksTheParameters : Prop :=
  ∀ s : State, s.cfgChecked = false →
    (Config.LayoutRules s.cfg ∧ Config.TableRules s.cfg ∧ Config.HasKnownMembers s.cfg → step s = .next { s with cfgChecked := true }) ∧
    (¬ (Config.LayoutRules s.cfg ∧ Config.TableRules s.cfg ∧ Config.HasKnownMembers s.cfg) → step s = .refused .badConfig)

/-! ## The commands without bus access -/

/-- 45_instance_create.md R131 to R135: the `EXEC` step of `CREATE`, its checks in the spec's order: `INVALID_VARIANT`
(status 3), `RECREATE` (fault 7), `ADDRESS_RANGE` (fault 8), `ADDRESS_ALIAS` (fault 9), else the slot is bound and the command
finishes `OK`. -/
def Obligations.CreateFollowsItsChecks : Prop :=
  ∀ (s : State) (slot var : BitVec 2) (auxp : Bool) (i : SlotId),
    SlotId.ofBits slot = some i → s.phase = .exec →
    let base : DWord := s.latch.arg1 ++ s.latch.arg0
    let aux : DWord := s.latch.arg3 ++ s.latch.arg2
    let faults (n : BitVec 4) : State := { s with
      fcode := if s.faulted then s.fcode else n
      fslot := if s.faulted then s.fslot else s.latch.slot
      faulted := true, busy := true, phase := .halted }
    (var = 3 → exec (.create slot var auxp) s = .next { s with
      code := 3, res0 := 0, res1 := 0, res2 := 0, found := false, busy := false, phase := .idle }) ∧
    (∀ v, Variant.ofBits var = some v →
      ((s.slot i).valid = true → exec (.create slot var auxp) s = .next (faults 7)) ∧
      ((s.slot i).valid = false → ¬ s.addressesFit v base auxp aux →
        exec (.create slot var auxp) s = .next (faults 8)) ∧
      ((s.slot i).valid = false → s.addressesFit v base auxp aux → s.addressesCollide i v base auxp aux →
        exec (.create slot var auxp) s = .next (faults 9)) ∧
      ((s.slot i).valid = false → s.addressesFit v base auxp aux → ¬ s.addressesCollide i v base auxp aux →
        exec (.create slot var auxp) s = .next { s with
          slots := s.slots.set i
            { valid := true, variant := v, base := base, auxp := auxp, aux := if auxp then aux else 0 }
          code := 0, res0 := 0, res1 := 0, res2 := 0, found := false, busy := false, phase := .idle }))

/-- 41_rate_lookup.md R75: `FIND_RATE` of a target that stands in the variant's table, at index `n`, finishes `OK` with
`FOUND = 1` and the index in `RES0`, if the parameters are well formed (R72: the targets are distinct). -/
def Obligations.FindRateGivesTheIndex : Prop :=
  ∀ (s : State) (var : BitVec 2) (v : Variant) (n : Nat) (e : RateEntry),
    Variant.ofBits var = some v → s.phase = .exec → Config.wf s.cfg = true →
    (s.cfg.rateTable.get v)[n]? = some e → e.target = (s.latch.arg1 ++ s.latch.arg0 : DWord) →
    exec (.findRate var) s = .next { s with
      code := 0, res0 := BitVec.ofNat 32 n, res1 := 0, res2 := 0, found := true, busy := false, phase := .idle }

/-- 41_rate_lookup.md R76: `FIND_RATE` of a target no entry of the variant's table has finishes with `FOUND = 0` (and `OK`,
all results 0), whatever the parameters. -/
def Obligations.FindRateMissesAbsentTargets : Prop :=
  ∀ (s : State) (var : BitVec 2) (v : Variant),
    Variant.ofBits var = some v → s.phase = .exec →
    (∀ e ∈ s.cfg.rateTable.get v, e.target ≠ (s.latch.arg1 ++ s.latch.arg0 : DWord)) →
    exec (.findRate var) s = .next { s with
      code := 0, res0 := 0, res1 := 0, res2 := 0, found := false, busy := false, phase := .idle }

/-- 42_field_codec.md R84, 41_rate_lookup.md R75: with `VAR = 3` each of the four commands that only look things up finishes
`INVALID_VARIANT` (status 3), all results 0, for every operand and every legal field. -/
def Obligations.LookupsRefuseAVariantOutsideTheSet : Prop :=
  ∀ (s : State) (fld : BitVec 3), s.phase = .exec → fld ≠ 7 →
    ∀ c ∈ [Instr.findRate 3, .fieldLayout 3 fld, .fieldExtract 3 fld, .fieldInsert 3 fld],
      exec c s = .next { s with
        code := 3, res0 := 0, res1 := 0, res2 := 0, found := false, busy := false, phase := .idle }

/-- 42_field_codec.md R85: `FIELD_LAYOUT` reports offset, mask (R77) and shift of every field of every variant. -/
def Obligations.FieldLayoutReportsTheLayout : Prop :=
  ∀ (s : State) (var : BitVec 2) (fld : BitVec 3) (v : Variant) (f : FieldId),
    Variant.ofBits var = some v → FieldId.ofBits fld = some f → s.phase = .exec →
    let l := (s.cfg.layout.get v).get f
    exec (.fieldLayout var fld) s = .next { s with
      code := 0, res0 := BitVec.ofNat 32 l.off, res1 := BitVec.ofNat 32 ((2 ^ l.width - 1) * 2 ^ l.shift)
      res2 := BitVec.ofNat 32 l.shift, found := false, busy := false, phase := .idle }

/-- 42_field_codec.md R86: `FIELD_EXTRACT` of a field that lies inside a register (R78 item 2) gives the number in its bits:
the raw value divided by `2^SHIFT`, modulo `2^WIDTH`. -/
def Obligations.FieldExtractGivesTheFieldsNumber : Prop :=
  ∀ (s : State) (var : BitVec 2) (fld : BitVec 3) (v : Variant) (f : FieldId),
    Variant.ofBits var = some v → FieldId.ofBits fld = some f → s.phase = .exec →
    let l := (s.cfg.layout.get v).get f
    l.shift + l.width ≤ 32 →
    exec (.fieldExtract var fld) s = .next { s with
      code := 0, res0 := BitVec.ofNat 32 (s.latch.arg0.toNat / 2 ^ l.shift % 2 ^ l.width), res1 := 0, res2 := 0
      found := false, busy := false, phase := .idle }

/-- 42_field_codec.md R87: `FIELD_INSERT` of a value that fits puts it into the field's bits and keeps every other bit; a
value of `2^WIDTH` or more finishes `FIELD_RANGE` (status 4) with all results 0. -/
def Obligations.FieldInsertReplacesTheFieldOnly : Prop :=
  ∀ (s : State) (var : BitVec 2) (fld : BitVec 3) (v : Variant) (f : FieldId),
    Variant.ofBits var = some v → FieldId.ofBits fld = some f → s.phase = .exec →
    let l := (s.cfg.layout.get v).get f
    (s.latch.arg1.toNat < 2 ^ l.width →
      ∃ r : Word,
        exec (.fieldInsert var fld) s = .next { s with
          code := 0, res0 := r, res1 := 0, res2 := 0, found := false, busy := false, phase := .idle } ∧
        ∀ j, j < 32 → r.getLsbD j =
          if l.shift ≤ j ∧ j < l.shift + l.width then s.latch.arg1.getLsbD (j - l.shift)
          else s.latch.arg0.getLsbD j) ∧
    (2 ^ l.width ≤ s.latch.arg1.toNat →
      exec (.fieldInsert var fld) s = .next { s with
        code := 4, res0 := 0, res1 := 0, res2 := 0, found := false, busy := false, phase := .idle })

/-- 42_field_codec.md R83, R81: in a field that lies inside a register, a value that fits reads back as inserted, no bit outside
the mask changes, and an extracted value is below `2^WIDTH`. -/
def Obligations.InsertThenExtractReturnsTheValue : Prop :=
  ∀ (l : FieldLayout) (raw val : Word), l.shift + l.width ≤ 32 →
    (val.toNat < 2 ^ l.width →
      extractField (insertField raw (fieldMask l) l.shift val) (fieldMask l) l.shift = val) ∧
    insertField raw (fieldMask l) l.shift val &&& ~~~ fieldMask l = raw &&& ~~~ fieldMask l ∧
    (extractField raw (fieldMask l) l.shift).toNat < 2 ^ l.width

/-- FRAME of the five commands without bus access, in whatever phase they step and however they end: every byte of the bus
reads as before, and the trace, the operand registers, the latch, the time, the working registers, the parameters and the other
agents' moves are as before; no slot changes but the one `CREATE` names; `FAULT` changes only if the block halts;
`STATUS.CODE`, `FOUND` and the results change only in `EXEC`. -/
def Obligations.LookupCommandsLeaveTheRest : Prop :=
  ∀ (s t : State) (c : Instr), (∀ slot, c ≠ .setRate slot ∧ c ≠ .recalcRate slot) → exec c s = .next t →
    (∀ a, t.bus.readByte a = s.bus.readByte a) ∧ t.bus = s.bus ∧ t.trace = s.trace ∧
    t.arg0 = s.arg0 ∧ t.arg1 = s.arg1 ∧ t.arg2 = s.arg2 ∧ t.arg3 = s.arg3 ∧ t.latch = s.latch ∧ t.nowUs = s.nowUs ∧
    t.idx = s.idx ∧ t.ref = s.ref ∧ t.t0 = s.t0 ∧ t.rbDacpd = s.rbDacpd ∧ t.rbDsmpd = s.rbDsmpd ∧
    t.rbPrediv = s.rbPrediv ∧ t.rbFbdiv = s.rbFbdiv ∧ t.rbPostdiv = s.rbPostdiv ∧ t.rbFrac = s.rbFrac ∧
    t.cfg = s.cfg ∧ t.cfgChecked = s.cfgChecked ∧ t.schedule = s.schedule ∧ t.draws = s.draws ∧
    t.hostData = s.hostData ∧
    (∀ i, (∀ slot var auxp, c = .create slot var auxp → SlotId.ofBits slot ≠ some i) → t.slot i = s.slot i) ∧
    (t.phase ≠ .halted → t.fcode = s.fcode ∧ t.fslot = s.fslot ∧ t.faulted = s.faulted) ∧
    (s.phase ≠ .exec → t.code = s.code ∧ t.found = s.found ∧ t.res0 = s.res0 ∧ t.res1 = s.res1 ∧ t.res2 = s.res2)

/-! ## SET_RATE -/

/-- 43_set_rate.md R91: `SR_LOOKUP` ends with `UNSUPPORTED_RATE` (status 1) if no entry has the target, raises `MISSING_AUX`
(fault 3) for a variant B slot without aux block whose rate is found, and otherwise sets `IDX` to the entry's index and goes on to
the mux step (variant B) or the power-down step. The parameters are well formed (41_rate_lookup.md R72). -/
def Obligations.LookupPhaseChoosesTheWay : Prop :=
  ∀ (s : State) (slot : BitVec 2) (i : SlotId), SlotId.ofBits slot = some i → s.phase = .srLookup →
    Config.wf s.cfg = true →
    let hz : DWord := s.latch.arg1 ++ s.latch.arg0
    let table := s.cfg.rateTable.get (s.slot i).variant
    ((∀ e ∈ table, e.target ≠ hz) → exec (.setRate slot) s = .next { s with
      code := 1, res0 := 0, res1 := 0, res2 := 0, found := false, busy := false, phase := .idle }) ∧
    (∀ n e, table[n]? = some e → e.target = hz →
      ((s.slot i).variant = .b ∧ (s.slot i).auxp = false →
        exec (.setRate slot) s = .next { s with
          fcode := if s.faulted then s.fcode else 3
          fslot := if s.faulted then s.fslot else s.latch.slot
          faulted := true, busy := true, phase := .halted }) ∧
      ((s.slot i).variant = .b ∧ (s.slot i).auxp = true →
        exec (.setRate slot) s = .next { s with idx := BitVec.ofNat 4 n, phase := .srPreMux }) ∧
      ((s.slot i).variant ≠ .b →
        exec (.setRate slot) s = .next { s with idx := BitVec.ofNat 4 n, phase := .srPdOn }))

/-- 43_set_rate.md R94 to R102: each of the six write steps is one read-modify-write of its field (42_field_codec.md R88), in the
listed order, with the value the matched entry gives: the mode bits are 1 in integer mode and 0 in fractional mode, the fraction
is 0 in integer mode, and the post-divider is written as its logarithm. -/
def Obligations.WriteStepsProgramTheEntry : Prop :=
  ∀ (s : State) (slot : BitVec 2) (i : SlotId) (e : RateEntry) (k : Nat),
    SlotId.ofBits slot = some i → (s.cfg.rateTable.get (s.slot i).variant)[s.idx.toNat]? = some e →
    e.postdiv1.toNat = 2 ^ k →
    let mode : Word := if e.useFraction then 0 else 1
    let frac : Word := if e.useFraction then BitVec.ofNat 32 e.frac.toNat else 0
    ∀ w ∈ [(FieldId.dacpd, Phase.srWDacpd, Phase.srWDsmpd, mode), (.dsmpd, .srWDsmpd, .srWFrac, mode),
           (.frac, .srWFrac, .srWPrediv, frac), (.prediv, .srWPrediv, .srWFbdiv, e.prediv),
           (.fbdiv, .srWFbdiv, .srWPostdiv, e.fbdiv), (.postdiv, .srWPostdiv, .srPdOff, BitVec.ofNat 32 k)],
      let a := s.fieldAddr i w.1
      let l := s.slotLayout i w.1
      s.phase = w.2.1 → a % 4 = 0 → a < 2 ^ s.cfg.addrW →
      exec (.setRate slot) s = .next { s with
        bus := s.bus.writeWord s.cfg.busEndian a
          (insertField (s.bus.readWord s.cfg.busEndian a) (fieldMask l) l.shift w.2.2.2)
        trace := s.trace ++ [.rd a (s.bus.readWord s.cfg.busEndian a),
          .wr a (insertField (s.bus.readWord s.cfg.busEndian a) (fieldMask l) l.shift w.2.2.2)]
        phase := w.2.2.1 }

/-- 43_set_rate.md R93, R103: `PD` is written 1 before the six writes and 0 after them; after that a variant B command takes the
time into `T0` and waits, any other takes the parent rate into `REF` and reads back. -/
def Obligations.PowerDownBracketsTheWrites : Prop :=
  ∀ (s : State) (slot : BitVec 2) (i : SlotId), SlotId.ofBits slot = some i →
    let a := s.fieldAddr i .pd
    let l := s.slotLayout i .pd
    let r := s.bus.readWord s.cfg.busEndian a
    let put (val : Word) : State := { s with
      bus := s.bus.writeWord s.cfg.busEndian a (insertField r (fieldMask l) l.shift val)
      trace := s.trace ++ [.rd a r, .wr a (insertField r (fieldMask l) l.shift val)] }
    a % 4 = 0 → a < 2 ^ s.cfg.addrW →
    (s.phase = .srPdOn → exec (.setRate slot) s = .next { put 1 with phase := .srWDacpd }) ∧
    (s.phase = .srPdOff → (s.slot i).variant = .b →
      exec (.setRate slot) s = .next { put 0 with t0 := s.nowUs, phase := .srDelay }) ∧
    (s.phase = .srPdOff → (s.slot i).variant ≠ .b →
      exec (.setRate slot) s = .next { put 0 with ref := s.cfg.parentRate.get i, phase := .rcRDacpd })

/-- 43_set_rate.md R92, R105: the two mux steps of variant B, one read-modify-write each of the mux field, with
`SEL_REF_DIV2` before the power-down and with `SEL_PLL_DIV2`, the parent rate taken into `REF`, after the settling wait. -/
def Obligations.MuxStepsHandTheBusClockOver : Prop :=
  ∀ (s : State) (slot : BitVec 2) (i : SlotId), SlotId.ofBits slot = some i →
    let a := s.muxAddr i
    let l := s.cfg.auxMux
    let r := s.bus.readWord s.cfg.busEndian a
    let put (val : Word) : State := { s with
      bus := s.bus.writeWord s.cfg.busEndian a (insertField r (fieldMask l) l.shift val)
      trace := s.trace ++ [.rd a r, .wr a (insertField r (fieldMask l) l.shift val)] }
    a % 4 = 0 → a < 2 ^ s.cfg.addrW →
    (s.phase = .srPreMux → exec (.setRate slot) s = .next { put s.cfg.selRefDiv2 with phase := .srPdOn }) ∧
    (s.phase = .srPostMux → exec (.setRate slot) s =
      .next { put s.cfg.selPllDiv2 with ref := s.cfg.parentRate.get i, phase := .rcRDacpd })

/-- 43_set_rate.md R104: `SR_DELAY` makes no bus access; its step is taken when `NOW_US >= T0 + 100`, as numbers, and leads to
`SR_POST_MUX`; until then a step of the machine, no move being asked for, is one of the time source, and the command stays where
it is. Which of the two moves is the model's choice (notes/assumptions/2.md). -/
def Obligations.SettlingWaitIsALowerBound : Prop :=
  ∀ (s : State) (slot : BitVec 2) (i : SlotId), SlotId.ofBits slot = some i → s.phase = .srDelay →
    decode s.latch.word = .ok (.setRate slot) → s.alone →
    (s.t0.toNat + 100 ≤ s.nowUs.toNat →
      exec (.setRate slot) s = .next { s with phase := .srPostMux } ∧ step s = .next { s with phase := .srPostMux }) ∧
    (s.nowUs.toNat < s.t0.toNat + 100 → s.nowUs.toNat + 1 < 2 ^ 64 →
      ∃ d, 1 ≤ d ∧ s.nowUs.toNat + d < 2 ^ 64 ∧
        step s = .next { s with nowUs := BitVec.ofNat 64 (s.nowUs.toNat + d), draws := s.draws + 1 })

/-- FRAME of `SET_RATE`, in whatever phase it steps: the operand registers, the latch, the slots, the time, the parameters and
the other agents' moves are as before; where the step stores, it stores to the register the phase names (43_set_rate.md R108) and
every byte outside that register's four reads as before; where it stores nothing, every byte reads as before; the trace only
grows; status and results change only in `SR_LOOKUP` and `RC_COMPUTE`, and `FAULT` only if the block halts; `IDX`, `T0`, `REF` and
each read-back register change only in their phase. -/
def Obligations.SetRateLeavesTheRest : Prop :=
  ∀ (s t : State) (slot : BitVec 2) (i : SlotId), SlotId.ofBits slot = some i → exec (.setRate slot) s = .next t →
    (∀ a, s.storeAddr i = some a → ∀ b, ¬ inRegister a b → t.bus.readByte b = s.bus.readByte b) ∧
    (s.storeAddr i = none → ∀ b, t.bus.readByte b = s.bus.readByte b) ∧
    t.arg0 = s.arg0 ∧ t.arg1 = s.arg1 ∧ t.arg2 = s.arg2 ∧ t.arg3 = s.arg3 ∧ t.latch = s.latch ∧ t.slots = s.slots ∧
    t.nowUs = s.nowUs ∧ t.cfg = s.cfg ∧ t.cfgChecked = s.cfgChecked ∧ t.schedule = s.schedule ∧ t.draws = s.draws ∧
    t.hostData = s.hostData ∧ s.trace <+: t.trace ∧
    (s.phase ≠ .srLookup → s.phase ≠ .rcCompute →
      t.code = s.code ∧ t.found = s.found ∧ t.res0 = s.res0 ∧ t.res1 = s.res1 ∧ t.res2 = s.res2) ∧
    (t.phase ≠ .halted → t.fcode = s.fcode ∧ t.fslot = s.fslot ∧ t.faulted = s.faulted) ∧
    (s.phase ≠ .srLookup → t.idx = s.idx) ∧ (s.phase ≠ .srPdOff → t.t0 = s.t0) ∧
    (s.phase ≠ .srPdOff → s.phase ≠ .srPostMux → t.ref = s.ref) ∧
    (s.phase ≠ .rcRDacpd → t.rbDacpd = s.rbDacpd) ∧ (s.phase ≠ .rcRDsmpd → t.rbDsmpd = s.rbDsmpd) ∧
    (s.phase ≠ .rcRPrediv → t.rbPrediv = s.rbPrediv) ∧ (s.phase ≠ .rcRFbdiv → t.rbFbdiv = s.rbFbdiv) ∧
    (s.phase ≠ .rcRPostdiv → t.rbPostdiv = s.rbPostdiv) ∧ (s.phase ≠ .rcRFrac → t.rbFrac = s.rbFrac)

/-! ## RECALC_RATE and the datapath -/

/-- 44_recalc_rate.md R114 to R120: each read-back step, of `RECALC_RATE` and of the tail of `SET_RATE`, reads its field's
register once, in the listed order, and puts the field's value into its working register. -/
def Obligations.ReadBackStepsReadTheFields : Prop :=
  ∀ (s : State) (slot : BitVec 2) (i : SlotId), SlotId.ofBits slot = some i →
    ∀ c ∈ [Instr.setRate slot, .recalcRate slot],
    let got (f : FieldId) : State := { s with trace := s.trace ++ [.rd (s.fieldAddr i f) (s.busAt (s.fieldAddr i f))] }
    let here (f : FieldId) (p : Phase) : Prop :=
      s.phase = p ∧ s.fieldAddr i f % 4 = 0 ∧ s.fieldAddr i f < 2 ^ s.cfg.addrW
    (here .dacpd .rcRDacpd → exec c s =
      .next { got .dacpd with rbDacpd := (s.fieldVal i .dacpd).setWidth 1, phase := .rcRDsmpd }) ∧
    (here .dsmpd .rcRDsmpd → exec c s =
      .next { got .dsmpd with rbDsmpd := (s.fieldVal i .dsmpd).setWidth 1, phase := .rcRPrediv }) ∧
    (here .prediv .rcRPrediv → exec c s =
      .next { got .prediv with rbPrediv := s.fieldVal i .prediv, phase := .rcRFbdiv }) ∧
    (here .fbdiv .rcRFbdiv → exec c s =
      .next { got .fbdiv with rbFbdiv := s.fieldVal i .fbdiv, phase := .rcRPostdiv }) ∧
    (here .postdiv .rcRPostdiv → exec c s =
      .next { got .postdiv with rbPostdiv := s.fieldVal i .postdiv, phase := .rcRFrac }) ∧
    (here .frac .rcRFrac → exec c s =
      .next { got .frac with rbFrac := s.fieldVal i .frac, phase := .rcCompute })

/-- 44_recalc_rate.md R121 to R125: `RC_COMPUTE`, of both commands, checks in the listed order: mixed mode bits finish
`INVALID_PLL_MODE` (status 2); a zero pre-divider raises `ZERO_PREDIV` (fault 4); a product of `2^64` or more raises
`ARITH_OVERFLOW` (fault 5); otherwise the result is the exact rational, truncated once. -/
def Obligations.ComputeStepGivesTheTruncatedRational : Prop :=
  ∀ (s : State) (slot : BitVec 2) (i : SlotId), SlotId.ofBits slot = some i → s.phase = .rcCompute →
    ∀ c ∈ [Instr.setRate slot, .recalcRate slot],
    let frac := if s.rbDacpd = 0 then s.rbFrac.toNat else 0
    let num := s.ref.toNat * (s.rbFbdiv.toNat * 2 ^ 24 + frac)
    let rate := num / (s.rbPrediv.toNat * 2 ^ (24 + s.rbPostdiv.toNat))
    let faults (n : BitVec 4) : State := { s with
      fcode := if s.faulted then s.fcode else n
      fslot := if s.faulted then s.fslot else s.latch.slot
      faulted := true, busy := true, phase := .halted }
    (s.rbDacpd ≠ s.rbDsmpd → exec c s = .next { s with
      code := 2, res0 := 0, res1 := 0, res2 := 0, found := false, busy := false, phase := .idle }) ∧
    (s.rbDacpd = s.rbDsmpd → s.rbPrediv = 0 → exec c s = .next (faults 4)) ∧
    (s.rbDacpd = s.rbDsmpd → s.rbPrediv ≠ 0 → 2 ^ 64 ≤ num → exec c s = .next (faults 5)) ∧
    (s.rbDacpd = s.rbDsmpd → s.rbPrediv ≠ 0 → num < 2 ^ 64 → exec c s = .next { s with
      code := 0, res0 := BitVec.ofNat 32 rate, res1 := BitVec.ofNat 32 (rate / 2 ^ 32), res2 := 0
      found := false, busy := false, phase := .idle })

/-- 44_recalc_rate.md R127: the result is below `2^64` whenever the product is; a post-divider shift of 40 or more gives 0, and so
does a zero reference, or a zero feedback divider without fraction. -/
def Obligations.RecalcVanishesAtItsCorners : Prop :=
  ∀ (ref fbdiv frac prediv k : Nat), 1 ≤ prediv → recalcNum ref fbdiv frac < 2 ^ 64 →
    recalc ref fbdiv frac prediv k < 2 ^ 64 ∧
    (40 ≤ k → recalc ref fbdiv frac prediv k = 0) ∧
    (ref = 0 → recalc ref fbdiv frac prediv k = 0) ∧
    (fbdiv = 0 → frac = 0 → recalc ref fbdiv frac prediv k = 0)

/-- FRAME of `RECALC_RATE`, in whatever phase it steps: every byte of the bus reads as before; the operand registers, the latch,
the slots, `IDX`, `T0`, the time, the parameters and the other agents' moves are as before; the trace only grows; status and
results change only in `RC_COMPUTE`, `FAULT` only if the block halts, `REF` only in `DECODE`, and each read-back register only in
its phase. -/
def Obligations.RecalcLeavesTheRest : Prop :=
  ∀ (s t : State) (slot : BitVec 2), exec (.recalcRate slot) s = .next t →
    (∀ b, t.bus.readByte b = s.bus.readByte b) ∧
    t.arg0 = s.arg0 ∧ t.arg1 = s.arg1 ∧ t.arg2 = s.arg2 ∧ t.arg3 = s.arg3 ∧ t.latch = s.latch ∧ t.slots = s.slots ∧
    t.idx = s.idx ∧ t.t0 = s.t0 ∧ t.nowUs = s.nowUs ∧ t.cfg = s.cfg ∧ t.cfgChecked = s.cfgChecked ∧
    t.schedule = s.schedule ∧ t.draws = s.draws ∧ t.hostData = s.hostData ∧ s.trace <+: t.trace ∧
    (s.phase ≠ .rcCompute →
      t.code = s.code ∧ t.found = s.found ∧ t.res0 = s.res0 ∧ t.res1 = s.res1 ∧ t.res2 = s.res2) ∧
    (t.phase ≠ .halted → t.fcode = s.fcode ∧ t.fslot = s.fslot ∧ t.faulted = s.faulted) ∧
    (s.phase ≠ .decode → t.ref = s.ref) ∧
    (s.phase ≠ .rcRDacpd → t.rbDacpd = s.rbDacpd) ∧ (s.phase ≠ .rcRDsmpd → t.rbDsmpd = s.rbDsmpd) ∧
    (s.phase ≠ .rcRPrediv → t.rbPrediv = s.rbPrediv) ∧ (s.phase ≠ .rcRFbdiv → t.rbFbdiv = s.rbFbdiv) ∧
    (s.phase ≠ .rcRPostdiv → t.rbPostdiv = s.rbPostdiv) ∧ (s.phase ≠ .rcRFrac → t.rbFrac = s.rbFrac)

/-! ## Whole commands -/

/-- 44_recalc_rate.md R113, R114, R125: a `RECALC_RATE` on a bound slot, left alone, ends after eight steps. If the mode bits in
the registers agree, the pre-divider is not 0 and the product does not overflow, it ends `OK` with the truncated rational of the
register contents; the bus is as before, and the trace has the six reads, in the listed order. -/
def Obligations.RecalcRunGivesTheRegistersFrequency : Prop :=
  ∀ (s : State) (slot : BitVec 2) (i : SlotId),
    s.Inv → s.alone → s.phase = .decode → decode s.latch.word = .ok (.recalcRate slot) →
    SlotId.ofBits slot = some i → (s.slot i).valid = true →
    let frac := if s.fieldVal i .dacpd = 0 then (s.fieldVal i .frac).toNat else 0
    let num := (s.latch.arg1 ++ s.latch.arg0 : DWord).toNat * ((s.fieldVal i .fbdiv).toNat * 2 ^ 24 + frac)
    s.fieldVal i .dacpd = s.fieldVal i .dsmpd → s.fieldVal i .prediv ≠ 0 → num < 2 ^ 64 →
    ∃ t, Host.Core.run Sys2Proof.core 8 s = .next t ∧ t.ended ∧ t.code = 0 ∧
      (t.res1 ++ t.res0 : DWord).toNat =
        num / ((s.fieldVal i .prediv).toNat * 2 ^ (24 + (s.fieldVal i .postdiv).toNat)) ∧
      t.bus = s.bus ∧ t.slots = s.slots ∧
      t.trace = s.trace ++ readOrder.map fun f => .rd (s.fieldAddr i f) (s.busAt (s.fieldAddr i f))

/-- 44_recalc_rate.md R125, R129: on registers it cannot compute from, the same run reads the same six registers, writes none, and
ends: mixed mode bits give `INVALID_PLL_MODE` (status 2), a zero pre-divider `ZERO_PREDIV` (fault 4), a product of `2^64` or more
`ARITH_OVERFLOW` (fault 5), in this order. -/
def Obligations.RecalcRunReportsBadRegisters : Prop :=
  ∀ (s : State) (slot : BitVec 2) (i : SlotId),
    s.Inv → s.alone → s.phase = .decode → decode s.latch.word = .ok (.recalcRate slot) →
    SlotId.ofBits slot = some i → (s.slot i).valid = true →
    let frac := if s.fieldVal i .dacpd = 0 then (s.fieldVal i .frac).toNat else 0
    let num := (s.latch.arg1 ++ s.latch.arg0 : DWord).toNat * ((s.fieldVal i .fbdiv).toNat * 2 ^ 24 + frac)
    ∃ t, Host.Core.run Sys2Proof.core 8 s = .next t ∧ t.bus = s.bus ∧
      t.trace = s.trace ++ readOrder.map (fun f => .rd (s.fieldAddr i f) (s.busAt (s.fieldAddr i f))) ∧
      (s.fieldVal i .dacpd ≠ s.fieldVal i .dsmpd →
        t.ended ∧ t.code = 2 ∧ t.res0 = 0 ∧ t.res1 = 0 ∧ t.res2 = 0) ∧
      (s.fieldVal i .dacpd = s.fieldVal i .dsmpd → s.fieldVal i .prediv = 0 →
        t.endedFaulted ∧ t.phase = .halted ∧ t.fcode = 4 ∧ t.fslot = slot) ∧
      (s.fieldVal i .dacpd = s.fieldVal i .dsmpd → s.fieldVal i .prediv ≠ 0 → 2 ^ 64 ≤ num →
        t.endedFaulted ∧ t.phase = .halted ∧ t.fcode = 5 ∧ t.fslot = slot)

/-- 44_recalc_rate.md R126: in integer mode the result does not depend on the `FRAC` field: two machines that differ only in what
the `FRAC` field of the slot holds end the same `RECALC_RATE` with the same results, status and fault. -/
def Obligations.IntegerModeIgnoresTheFraction : Prop :=
  ∀ (s : State) (slot : BitVec 2) (i : SlotId) (x : Word),
    s.Inv → s.alone → s.phase = .decode → decode s.latch.word = .ok (.recalcRate slot) →
    SlotId.ofBits slot = some i → (s.slot i).valid = true →
    s.fieldVal i .dacpd = 1 → s.fieldVal i .dsmpd = 1 →
    let a := s.fieldAddr i .frac
    let l := s.slotLayout i .frac
    let s' := { s with bus := s.bus.writeWord s.cfg.busEndian a (insertField (s.busAt a) (fieldMask l) l.shift x) }
    ∃ t t', Host.Core.run Sys2Proof.core 8 s = .next t ∧ Host.Core.run Sys2Proof.core 8 s' = .next t' ∧
      t'.res0 = t.res0 ∧ t'.res1 = t.res1 ∧ t'.res2 = t.res2 ∧ t'.statusWord = t.statusWord ∧
      t'.faultWord = t.faultWord ∧ t'.phase = t.phase

/-- 43_set_rate.md R107: a `SET_RATE` of a frequency absent from the slot's table ends in `SR_LOOKUP`, with
`UNSUPPORTED_RATE` and all results 0, before any register is read or written. -/
def Obligations.AbsentRateTouchesNoRegister : Prop :=
  ∀ (s : State) (slot : BitVec 2) (i : SlotId),
    s.alone → s.phase = .decode → decode s.latch.word = .ok (.setRate slot) →
    SlotId.ofBits slot = some i → (s.slot i).valid = true →
    (∀ e ∈ s.cfg.rateTable.get (s.slot i).variant, e.target ≠ (s.latch.arg1 ++ s.latch.arg0 : DWord)) →
    ∃ t, Host.Core.run Sys2Proof.core 2 s = .next t ∧ t.ended ∧ t.code = 1 ∧ t.found = false ∧
      t.res0 = 0 ∧ t.res1 = 0 ∧ t.res2 = 0 ∧ t.trace = s.trace ∧ t.bus = s.bus

/-- 43_set_rate.md R108, R112, 70_reset_and_hazards.md R173: a `SET_RATE` of an entry of the table, on a bound slot of variant A or
C, left alone, ends `OK` after 17 steps: its result is the frequency the parent rate gives with the entry's dividers; every field
of the slot holds the entry's value and `PD` is 0; it made the 22 accesses of the listed kinds at the listed registers in the listed
order; and every byte outside the slot's registers is as before. -/
def Obligations.SetRateRunProgramsVariantsAAndC : Prop :=
  ∀ (s : State) (slot : BitVec 2) (i : SlotId) (n : Nat) (e : RateEntry),
    s.Inv → s.alone → s.phase = .decode → decode s.latch.word = .ok (.setRate slot) →
    SlotId.ofBits slot = some i → (s.slot i).valid = true → (s.slot i).variant ≠ .b →
    (s.cfg.rateTable.get (s.slot i).variant)[n]? = some e → e.target = (s.latch.arg1 ++ s.latch.arg0 : DWord) →
    let num := (s.cfg.parentRate.get i).toNat * (e.fbdiv.toNat * 2 ^ 24 + (entryFrac e).toNat)
    num < 2 ^ 64 →
    ∃ t, Host.Core.run Sys2Proof.core 17 s = .next t ∧ t.ended ∧ t.code = 0 ∧
      (t.res1 ++ t.res0 : DWord).toNat = num / (e.prediv.toNat * e.postdiv1.toNat * 2 ^ 24) ∧
      (∀ f, t.fieldVal i f = entryValue e f) ∧
      t.trace.map BusEvent.shape = s.trace.map BusEvent.shape ++ s.bracketShape i ++ s.recalcShape i ∧
      t.trace.length = s.trace.length + 22 ∧ t.slots = s.slots ∧
      (∀ b, (∀ f, ¬ inRegister (s.fieldAddr i f) b) → t.bus.readByte b = s.bus.readByte b)

/-- 43_set_rate.md R108, R109, R112: the same for variant B with an aux block, in at most 120 steps, the time source moving while the
command waits: 26 accesses, the mux steps first and last of the writes; the mux field ends at `SEL_PLL_DIV2`; and at least 100
microseconds pass. That the time source moves by default, and so how soon the command ends, is the model's choice
(notes/assumptions/2.md, 8.md, 28.md). -/
def Obligations.SetRateRunHandsVariantBOver : Prop :=
  ∀ (s : State) (slot : BitVec 2) (i : SlotId) (n : Nat) (e : RateEntry),
    s.Inv → s.alone → s.phase = .decode → decode s.latch.word = .ok (.setRate slot) →
    SlotId.ofBits slot = some i → (s.slot i).valid = true → (s.slot i).variant = .b → (s.slot i).auxp = true →
    (s.cfg.rateTable.get .b)[n]? = some e → e.target = (s.latch.arg1 ++ s.latch.arg0 : DWord) →
    s.nowUs.toNat + 100 < 2 ^ 64 →
    let num := (s.cfg.parentRate.get i).toNat * (e.fbdiv.toNat * 2 ^ 24 + (entryFrac e).toNat)
    num < 2 ^ 64 →
    ∃ k t, k ≤ 120 ∧ Host.Core.run Sys2Proof.core k s = .next t ∧ t.ended ∧ t.code = 0 ∧
      (t.res1 ++ t.res0 : DWord).toNat = num / (e.prediv.toNat * e.postdiv1.toNat * 2 ^ 24) ∧
      (∀ f, t.fieldVal i f = entryValue e f) ∧ t.muxVal i = s.cfg.selPllDiv2 ∧
      t.trace.map BusEvent.shape = s.trace.map BusEvent.shape ++ rmwShape (s.muxAddr i) ++ s.bracketShape i ++
        rmwShape (s.muxAddr i) ++ s.recalcShape i ∧
      t.trace.length = s.trace.length + 26 ∧ s.nowUs.toNat + 100 ≤ t.nowUs.toNat ∧
      (∀ b, (∀ f, ¬ inRegister (s.fieldAddr i f) b) → ¬ inRegister (s.muxAddr i) b →
        t.bus.readByte b = s.bus.readByte b)

/-- 43_set_rate.md R112, 41_rate_lookup.md R72 item 7: when the parent rate is the reference the table is built for, a `SET_RATE` of
an entry of the table ends `OK` and returns exactly the frequency asked for: on variants A and C in 17 steps, on variant B, its aux
block present, in at most 120, the time source moving while the command waits. That the time source moves by default, and so how
soon variant B ends, is the model's choice (notes/assumptions/2.md, 8.md, 28.md). -/
def Obligations.SetRateReturnsTheRateAskedFor : Prop :=
  ∀ (s : State) (slot : BitVec 2) (i : SlotId) (n : Nat) (e : RateEntry),
    s.Inv → s.alone → s.phase = .decode → decode s.latch.word = .ok (.setRate slot) →
    SlotId.ofBits slot = some i → (s.slot i).valid = true →
    (s.cfg.rateTable.get (s.slot i).variant)[n]? = some e → e.target = (s.latch.arg1 ++ s.latch.arg0 : DWord) →
    s.cfg.parentRate.get i = s.cfg.tableRefHz.get (s.slot i).variant →
    ((s.slot i).variant ≠ .b → ∃ t, Host.Core.run Sys2Proof.core 17 s = .next t ∧ t.ended ∧ t.code = 0 ∧
      t.res1 = s.latch.arg1 ∧ t.res0 = s.latch.arg0) ∧
    ((s.slot i).variant = .b → (s.slot i).auxp = true → s.nowUs.toNat + 100 < 2 ^ 64 →
      ∃ k t, k ≤ 120 ∧ Host.Core.run Sys2Proof.core k s = .next t ∧ t.ended ∧ t.code = 0 ∧
        t.res1 = s.latch.arg1 ∧ t.res0 = s.latch.arg0)

/-- 43_set_rate.md R104, 60_exceptions.md R154: the settling wait ends: a variant B command that waits, left alone, reaches
`SR_POST_MUX` in at most 101 steps, if the time the wait needs is left before `2^64`. That time passes by default, one step after
another and each by at least 1, and with it the bound, is the model's choice (notes/assumptions/2.md, 8.md, 28.md): the spec gives
no upper bound. -/
def Obligations.SettlingWaitEnds : Prop :=
  ∀ (s : State) (slot : BitVec 2) (i : SlotId),
    s.alone → s.phase = .srDelay → decode s.latch.word = .ok (.setRate slot) → SlotId.ofBits slot = some i →
    s.t0.toNat + 100 < 2 ^ 64 → s.t0.toNat ≤ s.nowUs.toNat →
    ∃ k t, k ≤ 101 ∧ Host.Core.run Sys2Proof.core k s = .next t ∧ t.phase = .srPostMux ∧
      t.t0 = s.t0 ∧ s.t0.toNat + 100 ≤ t.nowUs.toNat ∧ t.bus = s.bus ∧ t.trace = s.trace

/-- 43_set_rate.md R106: in every run, whatever the other agents do meanwhile, the compute step of a `SET_RATE` ends `OK`, with the
frequency of the entry asked for at the parent rate, or raises `ARITH_OVERFLOW`: never `INVALID_PLL_MODE`, never `ZERO_PREDIV`. -/
def Obligations.SetRateNeverReportsABadMode : Prop :=
  ∀ (s : State) (slot : BitVec 2) (i : SlotId) (e : RateEntry),
    s.Inv → s.progressOk = true → s.phase = .rcCompute → decode s.latch.word = .ok (.setRate slot) →
    SlotId.ofBits slot = some i → s.entry i = some e →
    let num := (s.cfg.parentRate.get i).toNat * (e.fbdiv.toNat * 2 ^ 24 + (entryFrac e).toNat)
    (num < 2 ^ 64 → ∃ t, exec (.setRate slot) s = .next t ∧ t.ended ∧ t.code = 0 ∧
      (t.res1 ++ t.res0 : DWord).toNat = num / (e.prediv.toNat * e.postdiv1.toNat * 2 ^ 24)) ∧
    (2 ^ 64 ≤ num → ∃ t, exec (.setRate slot) s = .next t ∧ t.phase = .halted ∧ t.fcode = 5 ∧ t.bus = s.bus)

/-- A line of a host program runs (30_encoding.md R70, R71): from an idle block that asks for no other move, the line
`FIND_RATE VAR, hz` writes its operand and its command, waits, and ends with the index of the entry, the status read by the
host. That a program is loaded as moves of the schedule, that the host's reads of `STATUS` and the sequencer's steps take turns
while it waits, and with that the eight steps, and that the value read is kept in `hostData`, are the model's choices
(notes/assumptions/2.md, 3.md, 16.md, 17.md). -/
def Obligations.FindRateLineRuns : Prop :=
  ∀ (s : State) (var : BitVec 2) (v : Variant) (hz : DWord) (n : Nat) (e : RateEntry),
    s.Inv → s.alone → s.phase = .idle → Variant.ofBits var = some v →
    (s.cfg.rateTable.get v)[n]? = some e → e.target = hz →
    ∃ t, Host.Core.run Sys2Proof.core 8 (s.load [.findRate var hz]) = .next t ∧ t.ended ∧ t.schedule = [] ∧
      t.found = true ∧ t.code = 0 ∧ t.res0 = BitVec.ofNat 32 n ∧ t.hostData = t.statusWord ∧
      t.bus = s.bus ∧ t.trace = s.trace

/-! ## Invariants of every step -/

/-- The register bus keeps its canonical form in every step. The form is the model's (notes/assumptions/6.md). -/
def Obligations.StepKeepsTheBusCanonical : Prop :=
  ∀ s t : State, s.bus.wf = true → step s = .next t → t.bus.wf = true

/-- The invariant of the machine is kept by every step of every agent: the bus canonical, the latch fields those of the latched
word, `BUSY` and `FAULT` in accord with the phase, the codes legal, the bound slots placed and apart (45_instance_create.md R134,
R135), the phase one of the command that runs (10_state.md R27), the parameters well formed once checked. -/
def Obligations.StepKeepsTheInvariant : Prop :=
  ∀ s t : State, s.Inv → step s = .next t → t.Inv

/-- The invariant holds after reset, and so does the progress of `SET_RATE`. -/
def Obligations.ResetHasTheInvariant : Prop :=
  State.reset.Inv ∧ State.reset.progressOk = true

/-- How far a `SET_RATE` has come is kept by every step of every agent: `PD` holds 1 while the fields are written (43_set_rate.md
R110), each field holds the entry's value once written and each working register once read back, and the mux is not handed back
before the settling wait is over (R109). -/
def Obligations.StepKeepsTheProgressOfSetRate : Prop :=
  ∀ s t : State, s.Inv → s.progressOk = true → step s = .next t → t.progressOk = true

/-- 20_memory.md R46: in no state that keeps the invariant does a step make a misaligned or out-of-range bus access
(`busAddress`), index a table beyond its end (`romIndex`), or lack a step (`noStep`): the only fault of the model that is left is
that of the time source at the end of its count (`timeExhausted`). These four are faults of the model, not of the spec
(notes/assumptions/8.md, 11.md, 13.md, 14.md); of the steps the model refuses (notes/assumptions/15.md) nothing is said here. -/
def Obligations.InvariantExcludesModelFaults : Prop :=
  ∀ (s : State) (r : Fault), s.Inv → step s = .fault r →
    r = .timeExhausted ∧ s.nowUs.toNat = 2 ^ 64 - 1 ∧ s.seqEnabled = false

/-- 43_set_rate.md R110, 70_reset_and_hazards.md R165: no step of any agent changes a divider or mode field of any bound PLL
while that PLL's `PD` field is not 1. -/
def Obligations.DividersMoveOnlyUnderPowerDown : Prop :=
  ∀ (s t : State) (i : SlotId) (f : FieldId), s.Inv → s.progressOk = true → step s = .next t →
    (s.slot i).valid = true → f ≠ .pd →
    extractField (t.busAt (s.fieldAddr i f)) (fieldMask (s.slotLayout i f)) (s.slotLayout i f).shift ≠ s.fieldVal i f →
    s.fieldVal i .pd = 1

/-- 20_memory.md R39, R50: the block addresses nothing but the registers of the bound slots and their mux registers: a byte that
any step changes lies in one of them, or in the register that the host's own write names. -/
def Obligations.OnlyItsOwnRegistersChange : Prop :=
  ∀ (s t : State) (b : Nat), s.Inv → step s = .next t → t.bus.readByte b ≠ s.bus.readByte b →
    (∃ i f, (s.slot i).valid = true ∧ inRegister (s.fieldAddr i f) b) ∨
    (∃ i, (s.slot i).valid = true ∧ (s.slot i).auxp = true ∧ inRegister (s.muxAddr i) b) ∨
    (∃ a v ms, s.schedule = .busWrite a v :: ms ∧ inRegister a b)

/-- 10_state.md R25: the slots are written only by `CREATE`, in its `EXEC` step, and by reset. -/
def Obligations.OnlyCreateAndResetChangeSlots : Prop :=
  ∀ (s t : State), step s = .next t → t.slots ≠ s.slots →
    s.schedule.head? = some .reset ∨
    (s.phase = .exec ∧ t.phase = .idle ∧
      ∃ slot var auxp i, decode s.latch.word = .ok (.create slot var auxp) ∧ SlotId.ofBits slot = some i ∧
        ∀ j, j ≠ i → t.slot j = s.slot j)

/-- 70_reset_and_hazards.md R162, 10_state.md R31, R36, R20: in every step, whichever agent makes it, the parameters stay as they are,
time does not go back, the trace is only appended to (but by reset), and no operand register changes, but by the host's own write of
it and by reset: the sequencer writes none, nor does the time source or a waiting host. -/
def Obligations.StepRespectsTheOtherAgents : Prop :=
  ∀ (s t : State), step s = .next t →
    t.cfg = s.cfg ∧ s.nowUs.toNat ≤ t.nowUs.toNat ∧ (s.schedule.head? ≠ some .reset → s.trace <+: t.trace) ∧
    (s.schedule.head? ≠ some .reset →
      ((∀ v, s.schedule.head? ≠ some (.hostWrite 0x04 v)) → t.arg0 = s.arg0) ∧
      ((∀ v, s.schedule.head? ≠ some (.hostWrite 0x08 v)) → t.arg1 = s.arg1) ∧
      ((∀ v, s.schedule.head? ≠ some (.hostWrite 0x0C v)) → t.arg2 = s.arg2) ∧
      ((∀ v, s.schedule.head? ≠ some (.hostWrite 0x10 v)) → t.arg3 = s.arg3))

/-- 10_state.md R20, 70_reset_and_hazards.md R170: a write to the operand registers while a command runs does not change what the
command does: two machines that differ only in `ARG0`..`ARG3` make the same step, and still differ only there, in every step but
the host's writes and reads of the interface and reset: a turn of the sequencer, asked for or not, a read of a waiting host, a turn
of the others while it waits, a host bus write, the passage of time. -/
def Obligations.OperandsAreLatched : Prop :=
  ∀ (s t : State) (a0 a1 a2 a3 : Word),
    (∀ off v, s.schedule.head? ≠ some (.hostWrite off v)) → (∀ off, s.schedule.head? ≠ some (.hostRead off)) →
    s.schedule.head? ≠ some .reset → step s = .next t →
    step { s with arg0 := a0, arg1 := a1, arg2 := a2, arg3 := a3 } =
      .next { t with arg0 := a0, arg1 := a1, arg2 := a2, arg3 := a3 }

/-! ## The host and the time source -/

/-- 10_state.md R19, R22, R23: what a host read gives at each offset; `STATUS` and `FAULT` are the numbers their fields make;
`CMD` and every reserved offset read 0; the read changes nothing of the block. -/
def Obligations.InterfaceReadsGiveTheRegisters : Prop :=
  ∀ (s : State) (ms : List Move), s.cfgChecked = true →
    (∀ x ∈ [(0x00, (0 : Word)), (0x04, s.arg0), (0x08, s.arg1), (0x0C, s.arg2), (0x10, s.arg3), (0x14, s.res0),
            (0x18, s.res1), (0x1C, s.res2), (0x28, 0), (0x2C, 0), (0x30, 0), (0x34, 0), (0x38, 0), (0x3C, 0)],
      s.schedule = .hostRead x.1 :: ms → step s = .next { s with schedule := ms, hostData := x.2 }) ∧
    (s.schedule = .hostRead 0x20 :: ms → ∃ w, step s = .next { s with schedule := ms, hostData := w } ∧
      w.toNat = s.busy.toNat + 2 * s.found.toNat + 16 * s.code.toNat) ∧
    (s.schedule = .hostRead 0x24 :: ms → ∃ w, step s = .next { s with schedule := ms, hostData := w } ∧
      w.toNat = s.fcode.toNat + 16 * s.fslot.toNat + 2 ^ 31 * s.faulted.toNat)

/-- 10_state.md R19, R20, 20_memory.md R40: a host write of an operand register stores the value and nothing else; a write of a
read-only register or of a reserved offset is ignored. -/
def Obligations.InterfaceWritesReachOnlyArgs : Prop :=
  ∀ (s : State) (v : Word) (ms : List Move), s.cfgChecked = true →
    (s.schedule = .hostWrite 0x04 v :: ms → step s = .next { s with schedule := ms, arg0 := v }) ∧
    (s.schedule = .hostWrite 0x08 v :: ms → step s = .next { s with schedule := ms, arg1 := v }) ∧
    (s.schedule = .hostWrite 0x0C v :: ms → step s = .next { s with schedule := ms, arg2 := v }) ∧
    (s.schedule = .hostWrite 0x10 v :: ms → step s = .next { s with schedule := ms, arg3 := v }) ∧
    (∀ off, 0x14 ≤ off → off ≤ 0x3C → off % 4 = 0 → s.schedule = .hostWrite off v :: ms →
      step s = .next { s with schedule := ms })

/-- 60_exceptions.md R151, 10_state.md R36: a host register-bus write while `BUSY = 0`, to a register the bus has that is no PLL
register of a bound slot, stores the value (which reads back), leaves every other byte alone, and is recorded as `HostWr`. In any
other case the model has no such move (notes/assumptions/15.md). -/
def Obligations.HostBusWritesAtItsLiberty : Prop :=
  ∀ (s : State) (a : Nat) (v : Word) (ms : List Move), s.cfgChecked = true → s.schedule = .busWrite a v :: ms →
    s.bus.wf = true →
    let free := s.busy = false ∧ a % 4 = 0 ∧ a < 2 ^ s.cfg.addrW ∧ ∀ i f, (s.slot i).valid = true → s.fieldAddr i f ≠ a
    (free → ∃ t, step s = .next t ∧ t.busAt a = v ∧ (∀ b, ¬ inRegister a b → t.bus.readByte b = s.bus.readByte b) ∧
      t = { s with schedule := ms, bus := t.bus, trace := s.trace ++ [.hostWr a v] }) ∧
    (¬ free → step s = .refused .noHostBusWrite)

/-- 60_exceptions.md R153, 10_state.md R31: the time source may step at every state, by any `d >= 1` that does not make `NOW_US`
wrap, and changes `NOW_US` alone; and it is what moves when no move is asked for and the sequencer has no step, as in `IDLE` and
`HALTED` (the model's choice, notes/assumptions/2.md and 8.md). -/
def Obligations.TimeSourceSteps : Prop :=
  ∀ (s : State), s.cfgChecked = true →
    (∀ d ms, s.schedule = .tick d :: ms → 1 ≤ d → s.nowUs.toNat + d < 2 ^ 64 →
      step s = .next { s with schedule := ms, nowUs := BitVec.ofNat 64 (s.nowUs.toNat + d) }) ∧
    (s.schedule = [] → s.phase = .idle ∨ s.phase = .halted → s.nowUs.toNat + 1 < 2 ^ 64 →
      ∃ d, 1 ≤ d ∧ s.nowUs.toNat + d < 2 ^ 64 ∧
        step s = .next { s with nowUs := BitVec.ofNat 64 (s.nowUs.toNat + d), draws := s.draws + 1 })

/-- What each line of a host program expands to (30_encoding.md R70, R71): one host write for each operand word, in rising `ARG`
order, a 64-bit value low word first, whatever the register holds; the write of the command word, its fields where R59 puts them;
then `WAIT`. `HOSTWR` is one register-bus write. `WAIT` is host reads of `STATUS` until one finds `BUSY = 0`: while they find
`BUSY = 1` the reads and the turns of the other agents alternate, also where no other agent has a step (the alternation is the
model's, notes/assumptions/17.md). And on an idle block left alone the lines with most operands are accepted with exactly their
command and operands, the program loaded as moves of the schedule (notes/assumptions/3.md). -/
def Obligations.LinesExpandToTheirAccesses : Prop :=
  let lo (d : DWord) : Word := BitVec.ofNat 32 (d.toNat % 2 ^ 32)
  let hi (d : DWord) : Word := BitVec.ofNat 32 (d.toNat / 2 ^ 32)
  let cmd (opc slot var fld auxp : Nat) : List Move :=
    [.hostWrite 0x00 (BitVec.ofNat 32 (opc + 16 * slot + 64 * var + 256 * fld + 2048 * auxp)), .wait]
  (∀ (slot var : BitVec 2) (fld : BitVec 3) (d x : DWord) (raw val : Word) (a : Nat),
    (Line.create slot var d).expand = [.hostWrite 0x04 (lo d), .hostWrite 0x08 (hi d)] ++ cmd 1 slot.toNat var.toNat 0 0 ∧
    (Line.createAux slot var d x).expand =
      [.hostWrite 0x04 (lo d), .hostWrite 0x08 (hi d), .hostWrite 0x0C (lo x), .hostWrite 0x10 (hi x)] ++
        cmd 1 slot.toNat var.toNat 0 1 ∧
    (Line.findRate var d).expand = [.hostWrite 0x04 (lo d), .hostWrite 0x08 (hi d)] ++ cmd 2 0 var.toNat 0 0 ∧
    (Line.fieldLayout var fld).expand = cmd 3 0 var.toNat fld.toNat 0 ∧
    (Line.fieldExtract var fld raw).expand = [.hostWrite 0x04 raw] ++ cmd 4 0 var.toNat fld.toNat 0 ∧
    (Line.fieldInsert var fld raw val).expand =
      [.hostWrite 0x04 raw, .hostWrite 0x08 val] ++ cmd 5 0 var.toNat fld.toNat 0 ∧
    (Line.setRate slot d).expand = [.hostWrite 0x04 (lo d), .hostWrite 0x08 (hi d)] ++ cmd 6 slot.toNat 0 0 0 ∧
    (Line.recalcRate slot d).expand = [.hostWrite 0x04 (lo d), .hostWrite 0x08 (hi d)] ++ cmd 7 slot.toNat 0 0 0 ∧
    (Line.hostWr a val).expand = [.busWrite a val] ∧ Line.wait.expand = [.wait]) ∧
  (∀ (s : State) (ms : List Move), s.cfgChecked = true →
    (s.schedule = .wait :: ms → s.busy = false →
      step s = .next { s with hostData := s.statusWord, schedule := ms }) ∧
    (s.schedule = .wait :: ms → s.busy = true →
      step s = .next { s with hostData := s.statusWord, schedule := .others :: .wait :: ms }) ∧
    (s.schedule = .others :: ms → s.seqEnabled = false → s.nowUs.toNat + 1 < 2 ^ 64 →
      ∃ d, 1 ≤ d ∧ s.nowUs.toNat + d < 2 ^ 64 ∧ step s = .next { s with
        nowUs := BitVec.ofNat 64 (s.nowUs.toNat + d), draws := s.draws + 1, schedule := ms }) ∧
    (s.schedule = .others :: ms → s.seqEnabled = false → s.nowUs.toNat + 1 = 2 ^ 64 →
      step s = .next { s with schedule := ms })) ∧
  (∀ s : State, s.alone → s.busy = false →
    (∀ (slot var : BitVec 2) (d x : DWord), slot ≠ 3 →
      ∃ t, Host.Core.run Sys2Proof.core 5 (s.load [.createAux slot var d x]) = .next t ∧ t.phase = .decode ∧
        t.busy = true ∧ decode t.latch.word = .ok (.create slot var true) ∧ (t.latch.arg1 ++ t.latch.arg0 : DWord) = d ∧
        (t.latch.arg3 ++ t.latch.arg2 : DWord) = x ∧ t.schedule = [.wait] ∧ t.bus = s.bus ∧ t.slots = s.slots) ∧
    (∀ (var : BitVec 2) (fld : BitVec 3) (raw val : Word), fld ≠ 7 →
      ∃ t, Host.Core.run Sys2Proof.core 3 (s.load [.fieldInsert var fld raw val]) = .next t ∧ t.phase = .decode ∧
        t.busy = true ∧ decode t.latch.word = .ok (.fieldInsert var fld) ∧ t.latch.arg0 = raw ∧ t.latch.arg1 = val ∧
        t.schedule = [.wait] ∧ t.bus = s.bus ∧ t.slots = s.slots))
end

