-- ==== Sys2Proof/Laws/Codec.lean ====
section
/-! SUPPORT. The field codec bit by bit, and the operand forms (42_field_codec.md R77, R81, R82; 30_encoding.md R62, R65). -/

namespace Sys2Proof.Machine

/-- Bit `i` of a field's mask (42_field_codec.md R77). -/
theorem fieldMask_getLsbD (l : FieldLayout) (i : Nat) :
    (fieldMask l).getLsbD i = (decide (i < 32) && decide (l.shift ≤ i) && decide (i < l.shift + l.width)) := by
  simp only [fieldMask, BitVec.getLsbD_ofNat, Nat.testBit_shiftLeft, Nat.testBit_two_pow_sub_one, ge_iff_le]
  by_cases h1 : i < 32 <;> by_cases h2 : l.shift ≤ i <;> (simp [h1, h2]; try omega)

/-- Bit `i` of an extracted field (42_field_codec.md R81). -/
theorem extractField_getLsbD (raw mask : Word) (shift i : Nat) :
    (extractField raw mask shift).getLsbD i = (raw.getLsbD (shift + i) && mask.getLsbD (shift + i)) := by
  simp [extractField, BitVec.getLsbD_ushiftRight]

/-- Bit `i` of a register after an insert (42_field_codec.md R82). -/
theorem insertField_getLsbD (raw mask : Word) (shift : Nat) (val : Word) (i : Nat) :
    (insertField raw mask shift val).getLsbD i =
      if mask.getLsbD i then decide (i < 32) && !decide (i < shift) && val.getLsbD (i - shift)
      else raw.getLsbD i := by
  by_cases hi : i < 32
  · simp only [insertField, BitVec.getLsbD_or, BitVec.getLsbD_and, BitVec.getLsbD_not, BitVec.getLsbD_shiftLeft, hi,
      decide_true, Bool.true_and]
    cases mask.getLsbD i <;> simp
  · have h1 : mask.getLsbD i = false := BitVec.getLsbD_of_ge _ _ (by omega)
    have h2 : (insertField raw mask shift val).getLsbD i = false := BitVec.getLsbD_of_ge _ _ (by omega)
    have h3 : raw.getLsbD i = false := BitVec.getLsbD_of_ge _ _ (by omega)
    simp [h1, h2, h3]

/-- `WIDTH` bits hold a value below `2^WIDTH` and no bit above them. -/
theorem getLsbD_of_lt_two_pow {v : Word} {w i : Nat} (h : v.toNat < 2 ^ w) (hi : w ≤ i) : v.getLsbD i = false := by
  rw [BitVec.getLsbD, Nat.testBit_eq_false_of_lt]
  exact Nat.lt_of_lt_of_le h (Nat.pow_le_pow_right (by omega) hi)

/-- Inserting into one field leaves every field apart from it alone, when they share the register
(42_field_codec.md R78 item 4, R82). -/
theorem extractField_insertField_apart {l m : FieldLayout} (raw val : Word)
    (h : fieldMask l &&& fieldMask m = 0) :
    extractField (insertField raw (fieldMask l) l.shift val) (fieldMask m) m.shift
      = extractField raw (fieldMask m) m.shift := by
  apply BitVec.eq_of_getLsbD_eq
  intro i _
  simp only [extractField_getLsbD, insertField_getLsbD]
  have hb : ((fieldMask l) &&& (fieldMask m)).getLsbD (m.shift + i) = false := by rw [h]; simp
  rw [BitVec.getLsbD_and] at hb
  cases hm : (fieldMask m).getLsbD (m.shift + i)
  · simp
  · rw [hm, Bool.and_true] at hb
    simp [hb]

theorem Variant.ofBits_eq_none (b : BitVec 2) : Variant.ofBits b = none ↔ b = 3 := by
  revert b; decide

theorem SlotId.ofBits_eq_none (b : BitVec 2) : SlotId.ofBits b = none ↔ b = 3 := by
  revert b; decide

theorem FieldId.ofBits_eq_none (b : BitVec 3) : FieldId.ofBits b = none ↔ b = 7 := by
  revert b; decide

theorem FieldId.mem_all (f : FieldId) : f ∈ FieldId.all := by cases f <;> decide

theorem SlotId.mem_all (i : SlotId) : i ∈ SlotId.all := by cases i <;> decide

theorem Variant.mem_all (v : Variant) : v ∈ Variant.all := by cases v <;> decide

@[simp] theorem PerSlot.get_set_same {α : Type} (p : PerSlot α) (i : SlotId) (x : α) : (p.set i x).get i = x := by
  cases i <;> rfl

theorem PerSlot.get_set_other {α : Type} (p : PerSlot α) {i j : SlotId} (x : α) (h : j ≠ i) :
    (p.set i x).get j = p.get j := by
  cases i <;> cases j <;> first | rfl | exact absurd rfl h

/-- The two words of a 64-bit value give it back (30_encoding.md R65). -/
theorem join64_high_low (d : DWord) : join64 (highWord d) (lowWord d) = d := by
  apply BitVec.eq_of_getLsbD_eq
  intro i hi
  simp only [join64, highWord, lowWord, BitVec.getLsbD_append, BitVec.getLsbD_extractLsb']
  by_cases h : i < 32
  · simp [h]
  · have h2 : i - 32 < 32 := by omega
    have h3 : 32 + (i - 32) = i := by omega
    simp [h, h2, h3]

end Sys2Proof.Machine
end

