-- ==== Sys2Proof/Laws/Memory.lean ====
section
/-! SUPPORT. The laws of the register bus: a read after a write, writes leave other bytes alone, and every write keeps the
canonical form (20_memory.md R41 to R43). -/

namespace Sys2Proof.Machine

theorem lookupCell_none_of_rising {cs : List Host.Cell} : ∀ {lo a : Nat}, risingFrom lo cs = true → a < lo →
    lookupCell cs a = none := by
  induction cs with
  | nil => intro lo a _ _; rfl
  | cons c cs ih =>
    obtain ⟨k, b⟩ := c
    intro lo a h ha
    simp only [risingFrom, Bool.and_eq_true, decide_eq_true_eq] at h
    have hk : k ≠ a := by omega
    simp only [lookupCell, hk, if_false]
    exact ih h.2 (by omega)

theorem risingFrom_weaken {cs : List Host.Cell} {lo lo' : Nat} (h : risingFrom lo cs = true) (hl : lo' ≤ lo) :
    risingFrom lo' cs = true := by
  cases cs with
  | nil => rfl
  | cons c cs =>
    obtain ⟨k, b⟩ := c
    simp only [risingFrom, Bool.and_eq_true, decide_eq_true_eq] at h ⊢
    exact ⟨by omega, h.2⟩

theorem lookupCell_insertCell_same (cs : List Host.Cell) (a : Nat) (v : Byte) :
    lookupCell (insertCell cs a v) a = some v := by
  induction cs with
  | nil => simp [insertCell, lookupCell]
  | cons c cs ih =>
    obtain ⟨k, b⟩ := c
    unfold insertCell
    split
    · simp [lookupCell]
    · split
      · simp [lookupCell]
      · simp [lookupCell, *]

theorem lookupCell_insertCell_other (cs : List Host.Cell) {a b : Nat} (v : Byte) (h : b ≠ a) :
    lookupCell (insertCell cs a v) b = lookupCell cs b := by
  induction cs with
  | nil => simp [insertCell, lookupCell, Ne.symm h]
  | cons c cs ih =>
    obtain ⟨k, x⟩ := c
    unfold insertCell
    split
    · simp [lookupCell, Ne.symm h]
    · split
      · next hk => subst hk; simp [lookupCell, Ne.symm h]
      · simp [lookupCell, ih]

theorem lookupCell_eraseCell_other (cs : List Host.Cell) {a b : Nat} (h : b ≠ a) :
    lookupCell (eraseCell cs a) b = lookupCell cs b := by
  induction cs with
  | nil => rfl
  | cons c cs ih =>
    obtain ⟨k, x⟩ := c
    unfold eraseCell
    split
    · next hk => subst hk; simp [lookupCell, Ne.symm h]
    · simp [lookupCell, ih]

theorem lookupCell_eraseCell_same {cs : List Host.Cell} : ∀ {lo : Nat} (a : Nat), risingFrom lo cs = true →
    lookupCell (eraseCell cs a) a = none := by
  induction cs with
  | nil => intro lo a _; rfl
  | cons c cs ih =>
    obtain ⟨k, x⟩ := c
    intro lo a h
    simp only [risingFrom, Bool.and_eq_true, decide_eq_true_eq] at h
    unfold eraseCell
    split
    · next hk => subst hk; exact lookupCell_none_of_rising h.2 (by omega)
    · next hk => simp only [lookupCell, hk, if_false]; exact ih a h.2

theorem risingFrom_insertCell {cs : List Host.Cell} : ∀ {lo a : Nat} (v : Byte), risingFrom lo cs = true → lo ≤ a →
    risingFrom lo (insertCell cs a v) = true := by
  induction cs with
  | nil => intro lo a v _ ha; simp [insertCell, risingFrom, ha]
  | cons c cs ih =>
    obtain ⟨k, x⟩ := c
    intro lo a v h ha
    simp only [risingFrom, Bool.and_eq_true, decide_eq_true_eq] at h
    unfold insertCell
    split
    · simp only [risingFrom, Bool.and_eq_true, decide_eq_true_eq]
      exact ⟨ha, by omega, h.2⟩
    · split
      · next hk => subst hk; simp only [risingFrom, Bool.and_eq_true, decide_eq_true_eq]; exact h
      · simp only [risingFrom, Bool.and_eq_true, decide_eq_true_eq]
        exact ⟨h.1, ih v h.2 (by omega)⟩

theorem risingFrom_eraseCell {cs : List Host.Cell} : ∀ {lo : Nat} (a : Nat), risingFrom lo cs = true →
    risingFrom lo (eraseCell cs a) = true := by
  induction cs with
  | nil => intro lo a _; rfl
  | cons c cs ih =>
    obtain ⟨k, x⟩ := c
    intro lo a h
    simp only [risingFrom, Bool.and_eq_true, decide_eq_true_eq] at h
    unfold eraseCell
    split
    · exact risingFrom_weaken h.2 (by omega)
    · simp only [risingFrom, Bool.and_eq_true, decide_eq_true_eq]
      exact ⟨h.1, ih a h.2⟩

theorem all_insertCell {p : Host.Cell → Bool} {cs : List Host.Cell} {a : Nat} {v : Byte} (h : cs.all p = true)
    (hp : p (a, v) = true) : (insertCell cs a v).all p = true := by
  induction cs with
  | nil => simp [insertCell, hp]
  | cons c cs ih =>
    obtain ⟨k, x⟩ := c
    simp only [List.all_cons, Bool.and_eq_true] at h
    unfold insertCell
    split
    · simp [hp, h.1, h.2]
    · split
      · simp [hp, h.2]
      · simp only [List.all_cons, Bool.and_eq_true]; exact ⟨h.1, ih h.2⟩

theorem all_eraseCell {p : Host.Cell → Bool} {cs : List Host.Cell} {a : Nat} (h : cs.all p = true) :
    (eraseCell cs a).all p = true := by
  induction cs with
  | nil => rfl
  | cons c cs ih =>
    obtain ⟨k, x⟩ := c
    simp only [List.all_cons, Bool.and_eq_true] at h
    unfold eraseCell
    split
    · exact h.2
    · simp only [List.all_cons, Bool.and_eq_true]; exact ⟨h.1, ih h.2⟩

/-- Writing a byte keeps the canonical form. -/
theorem Memory.writeByte_wf {m : Memory} (h : m.wf = true) (a : Nat) (v : Byte) : (m.writeByte a v).wf = true := by
  simp only [Memory.wf, Bool.and_eq_true] at h ⊢
  obtain ⟨hr, ha⟩ := h
  unfold Memory.writeByte
  by_cases hv : v = m.fill.byteAt a
  · simp only [hv, if_true]
    exact ⟨risingFrom_eraseCell a hr, all_eraseCell ha⟩
  · simp only [hv, if_false]
    exact ⟨risingFrom_insertCell v hr (Nat.zero_le a), all_insertCell ha (by simpa using hv)⟩

/-- Writing a register keeps the canonical form. -/
theorem Memory.writeWord_wf {m : Memory} (h : m.wf = true) (e : Endian) (a : Nat) (v : Word) :
    (m.writeWord e a v).wf = true :=
  Memory.writeByte_wf (Memory.writeByte_wf (Memory.writeByte_wf (Memory.writeByte_wf h _ _) _ _) _ _) _ _

/-- The memory of the machine after reset has the canonical form. -/
theorem State.reset_bus_wf : State.reset.bus.wf = true := rfl

@[simp] theorem Memory.writeByte_fill (m : Memory) (a : Nat) (v : Byte) : (m.writeByte a v).fill = m.fill := rfl

@[simp] theorem Memory.writeWord_fill (m : Memory) (e : Endian) (a : Nat) (v : Word) :
    (m.writeWord e a v).fill = m.fill := rfl

/-- A byte reads back as written. -/
theorem Memory.readByte_writeByte_same {m : Memory} (h : m.wf = true) (a : Nat) (v : Byte) :
    (m.writeByte a v).readByte a = v := by
  simp only [Memory.wf, Bool.and_eq_true] at h
  unfold Memory.readByte Memory.writeByte
  by_cases hv : v = m.fill.byteAt a
  · simp only [hv, if_true]
    rw [lookupCell_eraseCell_same a h.1]
  · simp only [hv, if_false]
    rw [lookupCell_insertCell_same]

/-- Writing a byte leaves every other byte alone. -/
theorem Memory.readByte_writeByte_other (m : Memory) {a b : Nat} (v : Byte) (h : b ≠ a) :
    (m.writeByte a v).readByte b = m.readByte b := by
  unfold Memory.readByte Memory.writeByte
  by_cases hv : v = m.fill.byteAt a
  · simp only [hv, if_true]
    rw [lookupCell_eraseCell_other _ h]
  · simp only [hv, if_false]
    rw [lookupCell_insertCell_other _ _ h]

theorem laneOf_le (e : Endian) (i : Nat) (h : i ≤ 3) : laneOf e i ≤ 3 := by
  cases e <;> (simp only [laneOf]; omega)

theorem laneOf_injective (e : Endian) {i j : Nat} (hi : i ≤ 3) (hj : j ≤ 3) (h : laneOf e i = laneOf e j) : i = j := by
  cases e <;> simp only [laneOf] at h <;> omega

/-- Writing a register leaves every byte outside it alone (20_memory.md R43). -/
theorem Memory.readByte_writeWord_outside (m : Memory) (e : Endian) {a b : Nat} (v : Word)
    (h : b < a ∨ a + 4 ≤ b) : (m.writeWord e a v).readByte b = m.readByte b := by
  have hl : ∀ i, i ≤ 3 → b ≠ a + laneOf e i := fun i hi => by have := laneOf_le e i hi; omega
  unfold Memory.writeWord
  rw [Memory.readByte_writeByte_other _ _ (hl 3 (by omega)), Memory.readByte_writeByte_other _ _ (hl 2 (by omega)),
    Memory.readByte_writeByte_other _ _ (hl 1 (by omega)), Memory.readByte_writeByte_other _ _ (hl 0 (by omega))]

/-- Byte `i` of a register stands at its lane after a write. -/
theorem Memory.readByte_writeWord_lane {m : Memory} (hm : m.wf = true) (e : Endian) (a : Nat) (v : Word) {i : Nat}
    (hi : i ≤ 3) : (m.writeWord e a v).readByte (a + laneOf e i) = byteOf v i := by
  have hne : ∀ j, j ≤ 3 → i ≠ j → a + laneOf e i ≠ a + laneOf e j := fun j hj hij hc =>
    hij (laneOf_injective e hi hj (by omega))
  have w0 := Memory.writeByte_wf hm (a + laneOf e 0) (byteOf v 0)
  have w1 := Memory.writeByte_wf w0 (a + laneOf e 1) (byteOf v 1)
  have w2 := Memory.writeByte_wf w1 (a + laneOf e 2) (byteOf v 2)
  unfold Memory.writeWord
  by_cases h3 : i = 3
  · subst h3; exact Memory.readByte_writeByte_same w2 _ _
  rw [Memory.readByte_writeByte_other _ _ (hne 3 (by omega) h3)]
  by_cases h2 : i = 2
  · subst h2; exact Memory.readByte_writeByte_same w1 _ _
  rw [Memory.readByte_writeByte_other _ _ (hne 2 (by omega) h2)]
  by_cases h1 : i = 1
  · subst h1; exact Memory.readByte_writeByte_same w0 _ _
  rw [Memory.readByte_writeByte_other _ _ (hne 1 (by omega) h1)]
  have h0 : i = 0 := by omega
  subst h0; exact Memory.readByte_writeByte_same hm _ _

theorem byteOf_join (v : Word) : byteOf v 3 ++ (byteOf v 2 ++ (byteOf v 1 ++ byteOf v 0)) = v := by
  apply BitVec.eq_of_getLsbD_eq
  intro i hi
  simp only [byteOf, BitVec.getLsbD_append, BitVec.getLsbD_extractLsb']
  by_cases h24 : i < 8 + (8 + 8)
  · by_cases h16 : i < 8 + 8
    · by_cases h8 : i < 8
      · simp only [h24, h16, h8, if_true, decide_true, Bool.true_and]; congr 1; omega
      · have h : i - 8 < 8 := by omega
        simp only [h24, h16, h8, h, if_true, if_false, decide_true, Bool.true_and]; congr 1; omega
    · have h : i - (8 + 8) < 8 := by omega
      simp only [h24, h16, h, if_true, if_false, decide_true, Bool.true_and]; congr 1; omega
  · have h : i - (8 + (8 + 8)) < 8 := by omega
    simp only [h24, h, if_false, decide_true, Bool.true_and]; congr 1; omega

/-- A register reads back as written (20_memory.md R41). -/
theorem Memory.readWord_writeWord_same {m : Memory} (hm : m.wf = true) (e : Endian) (a : Nat) (v : Word) :
    (m.writeWord e a v).readWord e a = v := by
  unfold Memory.readWord
  rw [Memory.readByte_writeWord_lane hm e a v (by omega), Memory.readByte_writeWord_lane hm e a v (by omega),
    Memory.readByte_writeWord_lane hm e a v (by omega), Memory.readByte_writeWord_lane hm e a v (by omega), byteOf_join]

/-- A register is what its four bytes are. -/
theorem Memory.readWord_congr {m n : Memory} (e : Endian) {a : Nat}
    (h : ∀ b, a ≤ b → b < a + 4 → m.readByte b = n.readByte b) : m.readWord e a = n.readWord e a := by
  have hl : ∀ i, i ≤ 3 → m.readByte (a + laneOf e i) = n.readByte (a + laneOf e i) := fun i hi =>
    h _ (by omega) (by have := laneOf_le e i hi; omega)
  unfold Memory.readWord
  rw [hl 0 (by omega), hl 1 (by omega), hl 2 (by omega), hl 3 (by omega)]

/-- Writing a register leaves every register that shares no byte with it alone (20_memory.md R43). -/
theorem Memory.readWord_writeWord_apart (m : Memory) (e : Endian) {a b : Nat} (v : Word) (h : b + 4 ≤ a ∨ a + 4 ≤ b) :
    (m.writeWord e a v).readWord e b = m.readWord e b :=
  Memory.readWord_congr e fun x h1 h2 => Memory.readByte_writeWord_outside m e v (by omega)

end Sys2Proof.Machine
end

