-- ==== Sys2Proof/Laws/State.lean ====
section
/-! SUPPORT. What each shared operation leaves in each field of the state: one lemma per field per operation, each true by
rfl. -/

namespace Sys2Proof.Machine

/-! ## `finish` (10_state.md R29) -/

@[simp] theorem State.finish_arg0 (s : State) (c : StatusCode) (r0 r1 r2 : Word) (fd : Bool) :
    (s.finish c r0 r1 r2 fd).arg0 = s.arg0 := rfl
@[simp] theorem State.finish_arg1 (s : State) (c : StatusCode) (r0 r1 r2 : Word) (fd : Bool) :
    (s.finish c r0 r1 r2 fd).arg1 = s.arg1 := rfl
@[simp] theorem State.finish_arg2 (s : State) (c : StatusCode) (r0 r1 r2 : Word) (fd : Bool) :
    (s.finish c r0 r1 r2 fd).arg2 = s.arg2 := rfl
@[simp] theorem State.finish_arg3 (s : State) (c : StatusCode) (r0 r1 r2 : Word) (fd : Bool) :
    (s.finish c r0 r1 r2 fd).arg3 = s.arg3 := rfl
@[simp] theorem State.finish_res0 (s : State) (c : StatusCode) (r0 r1 r2 : Word) (fd : Bool) :
    (s.finish c r0 r1 r2 fd).res0 = r0 := rfl
@[simp] theorem State.finish_res1 (s : State) (c : StatusCode) (r0 r1 r2 : Word) (fd : Bool) :
    (s.finish c r0 r1 r2 fd).res1 = r1 := rfl
@[simp] theorem State.finish_res2 (s : State) (c : StatusCode) (r0 r1 r2 : Word) (fd : Bool) :
    (s.finish c r0 r1 r2 fd).res2 = r2 := rfl
@[simp] theorem State.finish_busy (s : State) (c : StatusCode) (r0 r1 r2 : Word) (fd : Bool) :
    (s.finish c r0 r1 r2 fd).busy = false := rfl
@[simp] theorem State.finish_found (s : State) (c : StatusCode) (r0 r1 r2 : Word) (fd : Bool) :
    (s.finish c r0 r1 r2 fd).found = fd := rfl
@[simp] theorem State.finish_code (s : State) (c : StatusCode) (r0 r1 r2 : Word) (fd : Bool) :
    (s.finish c r0 r1 r2 fd).code = c.bits := rfl
@[simp] theorem State.finish_fcode (s : State) (c : StatusCode) (r0 r1 r2 : Word) (fd : Bool) :
    (s.finish c r0 r1 r2 fd).fcode = s.fcode := rfl
@[simp] theorem State.finish_fslot (s : State) (c : StatusCode) (r0 r1 r2 : Word) (fd : Bool) :
    (s.finish c r0 r1 r2 fd).fslot = s.fslot := rfl
@[simp] theorem State.finish_faulted (s : State) (c : StatusCode) (r0 r1 r2 : Word) (fd : Bool) :
    (s.finish c r0 r1 r2 fd).faulted = s.faulted := rfl
@[simp] theorem State.finish_latch (s : State) (c : StatusCode) (r0 r1 r2 : Word) (fd : Bool) :
    (s.finish c r0 r1 r2 fd).latch = s.latch := rfl
@[simp] theorem State.finish_slots (s : State) (c : StatusCode) (r0 r1 r2 : Word) (fd : Bool) :
    (s.finish c r0 r1 r2 fd).slots = s.slots := rfl
@[simp] theorem State.finish_phase (s : State) (c : StatusCode) (r0 r1 r2 : Word) (fd : Bool) :
    (s.finish c r0 r1 r2 fd).phase = .idle := rfl
@[simp] theorem State.finish_idx (s : State) (c : StatusCode) (r0 r1 r2 : Word) (fd : Bool) :
    (s.finish c r0 r1 r2 fd).idx = s.idx := rfl
@[simp] theorem State.finish_ref (s : State) (c : StatusCode) (r0 r1 r2 : Word) (fd : Bool) :
    (s.finish c r0 r1 r2 fd).ref = s.ref := rfl
@[simp] theorem State.finish_t0 (s : State) (c : StatusCode) (r0 r1 r2 : Word) (fd : Bool) :
    (s.finish c r0 r1 r2 fd).t0 = s.t0 := rfl
@[simp] theorem State.finish_rbDacpd (s : State) (c : StatusCode) (r0 r1 r2 : Word) (fd : Bool) :
    (s.finish c r0 r1 r2 fd).rbDacpd = s.rbDacpd := rfl
@[simp] theorem State.finish_rbDsmpd (s : State) (c : StatusCode) (r0 r1 r2 : Word) (fd : Bool) :
    (s.finish c r0 r1 r2 fd).rbDsmpd = s.rbDsmpd := rfl
@[simp] theorem State.finish_rbPrediv (s : State) (c : StatusCode) (r0 r1 r2 : Word) (fd : Bool) :
    (s.finish c r0 r1 r2 fd).rbPrediv = s.rbPrediv := rfl
@[simp] theorem State.finish_rbFbdiv (s : State) (c : StatusCode) (r0 r1 r2 : Word) (fd : Bool) :
    (s.finish c r0 r1 r2 fd).rbFbdiv = s.rbFbdiv := rfl
@[simp] theorem State.finish_rbPostdiv (s : State) (c : StatusCode) (r0 r1 r2 : Word) (fd : Bool) :
    (s.finish c r0 r1 r2 fd).rbPostdiv = s.rbPostdiv := rfl
@[simp] theorem State.finish_rbFrac (s : State) (c : StatusCode) (r0 r1 r2 : Word) (fd : Bool) :
    (s.finish c r0 r1 r2 fd).rbFrac = s.rbFrac := rfl
@[simp] theorem State.finish_nowUs (s : State) (c : StatusCode) (r0 r1 r2 : Word) (fd : Bool) :
    (s.finish c r0 r1 r2 fd).nowUs = s.nowUs := rfl
@[simp] theorem State.finish_bus (s : State) (c : StatusCode) (r0 r1 r2 : Word) (fd : Bool) :
    (s.finish c r0 r1 r2 fd).bus = s.bus := rfl
@[simp] theorem State.finish_trace (s : State) (c : StatusCode) (r0 r1 r2 : Word) (fd : Bool) :
    (s.finish c r0 r1 r2 fd).trace = s.trace := rfl
@[simp] theorem State.finish_cfg (s : State) (c : StatusCode) (r0 r1 r2 : Word) (fd : Bool) :
    (s.finish c r0 r1 r2 fd).cfg = s.cfg := rfl
@[simp] theorem State.finish_cfgChecked (s : State) (c : StatusCode) (r0 r1 r2 : Word) (fd : Bool) :
    (s.finish c r0 r1 r2 fd).cfgChecked = s.cfgChecked := rfl
@[simp] theorem State.finish_schedule (s : State) (c : StatusCode) (r0 r1 r2 : Word) (fd : Bool) :
    (s.finish c r0 r1 r2 fd).schedule = s.schedule := rfl
@[simp] theorem State.finish_draws (s : State) (c : StatusCode) (r0 r1 r2 : Word) (fd : Bool) :
    (s.finish c r0 r1 r2 fd).draws = s.draws := rfl
@[simp] theorem State.finish_hostData (s : State) (c : StatusCode) (r0 r1 r2 : Word) (fd : Bool) :
    (s.finish c r0 r1 r2 fd).hostData = s.hostData := rfl

/-! ## `raise` (60_exceptions.md R143) -/

@[simp] theorem State.raise_arg0 (s : State) (f : FaultCode) : (s.raise f).arg0 = s.arg0 := rfl
@[simp] theorem State.raise_arg1 (s : State) (f : FaultCode) : (s.raise f).arg1 = s.arg1 := rfl
@[simp] theorem State.raise_arg2 (s : State) (f : FaultCode) : (s.raise f).arg2 = s.arg2 := rfl
@[simp] theorem State.raise_arg3 (s : State) (f : FaultCode) : (s.raise f).arg3 = s.arg3 := rfl
@[simp] theorem State.raise_res0 (s : State) (f : FaultCode) : (s.raise f).res0 = s.res0 := rfl
@[simp] theorem State.raise_res1 (s : State) (f : FaultCode) : (s.raise f).res1 = s.res1 := rfl
@[simp] theorem State.raise_res2 (s : State) (f : FaultCode) : (s.raise f).res2 = s.res2 := rfl
@[simp] theorem State.raise_busy (s : State) (f : FaultCode) : (s.raise f).busy = true := rfl
@[simp] theorem State.raise_found (s : State) (f : FaultCode) : (s.raise f).found = s.found := rfl
@[simp] theorem State.raise_code (s : State) (f : FaultCode) : (s.raise f).code = s.code := rfl
@[simp] theorem State.raise_fcode (s : State) (f : FaultCode) :
    (s.raise f).fcode = if s.faulted then s.fcode else f.bits := rfl
@[simp] theorem State.raise_fslot (s : State) (f : FaultCode) :
    (s.raise f).fslot = if s.faulted then s.fslot else s.latch.slot := rfl
@[simp] theorem State.raise_faulted (s : State) (f : FaultCode) : (s.raise f).faulted = true := rfl
@[simp] theorem State.raise_latch (s : State) (f : FaultCode) : (s.raise f).latch = s.latch := rfl
@[simp] theorem State.raise_slots (s : State) (f : FaultCode) : (s.raise f).slots = s.slots := rfl
@[simp] theorem State.raise_phase (s : State) (f : FaultCode) : (s.raise f).phase = .halted := rfl
@[simp] theorem State.raise_idx (s : State) (f : FaultCode) : (s.raise f).idx = s.idx := rfl
@[simp] theorem State.raise_ref (s : State) (f : FaultCode) : (s.raise f).ref = s.ref := rfl
@[simp] theorem State.raise_t0 (s : State) (f : FaultCode) : (s.raise f).t0 = s.t0 := rfl
@[simp] theorem State.raise_rbDacpd (s : State) (f : FaultCode) : (s.raise f).rbDacpd = s.rbDacpd := rfl
@[simp] theorem State.raise_rbDsmpd (s : State) (f : FaultCode) : (s.raise f).rbDsmpd = s.rbDsmpd := rfl
@[simp] theorem State.raise_rbPrediv (s : State) (f : FaultCode) : (s.raise f).rbPrediv = s.rbPrediv := rfl
@[simp] theorem State.raise_rbFbdiv (s : State) (f : FaultCode) : (s.raise f).rbFbdiv = s.rbFbdiv := rfl
@[simp] theorem State.raise_rbPostdiv (s : State) (f : FaultCode) : (s.raise f).rbPostdiv = s.rbPostdiv := rfl
@[simp] theorem State.raise_rbFrac (s : State) (f : FaultCode) : (s.raise f).rbFrac = s.rbFrac := rfl
@[simp] theorem State.raise_nowUs (s : State) (f : FaultCode) : (s.raise f).nowUs = s.nowUs := rfl
@[simp] theorem State.raise_bus (s : State) (f : FaultCode) : (s.raise f).bus = s.bus := rfl
@[simp] theorem State.raise_trace (s : State) (f : FaultCode) : (s.raise f).trace = s.trace := rfl
@[simp] theorem State.raise_cfg (s : State) (f : FaultCode) : (s.raise f).cfg = s.cfg := rfl
@[simp] theorem State.raise_cfgChecked (s : State) (f : FaultCode) : (s.raise f).cfgChecked = s.cfgChecked := rfl
@[simp] theorem State.raise_schedule (s : State) (f : FaultCode) : (s.raise f).schedule = s.schedule := rfl
@[simp] theorem State.raise_draws (s : State) (f : FaultCode) : (s.raise f).draws = s.draws := rfl
@[simp] theorem State.raise_hostData (s : State) (f : FaultCode) : (s.raise f).hostData = s.hostData := rfl

/-! ## `MemRead` (20_memory.md R42) -/

@[simp] theorem State.memRead_arg0 (s : State) (a : Nat) : (s.memRead a).2.arg0 = s.arg0 := rfl
@[simp] theorem State.memRead_arg1 (s : State) (a : Nat) : (s.memRead a).2.arg1 = s.arg1 := rfl
@[simp] theorem State.memRead_arg2 (s : State) (a : Nat) : (s.memRead a).2.arg2 = s.arg2 := rfl
@[simp] theorem State.memRead_arg3 (s : State) (a : Nat) : (s.memRead a).2.arg3 = s.arg3 := rfl
@[simp] theorem State.memRead_res0 (s : State) (a : Nat) : (s.memRead a).2.res0 = s.res0 := rfl
@[simp] theorem State.memRead_res1 (s : State) (a : Nat) : (s.memRead a).2.res1 = s.res1 := rfl
@[simp] theorem State.memRead_res2 (s : State) (a : Nat) : (s.memRead a).2.res2 = s.res2 := rfl
@[simp] theorem State.memRead_busy (s : State) (a : Nat) : (s.memRead a).2.busy = s.busy := rfl
@[simp] theorem State.memRead_found (s : State) (a : Nat) : (s.memRead a).2.found = s.found := rfl
@[simp] theorem State.memRead_code (s : State) (a : Nat) : (s.memRead a).2.code = s.code := rfl
@[simp] theorem State.memRead_fcode (s : State) (a : Nat) : (s.memRead a).2.fcode = s.fcode := rfl
@[simp] theorem State.memRead_fslot (s : State) (a : Nat) : (s.memRead a).2.fslot = s.fslot := rfl
@[simp] theorem State.memRead_faulted (s : State) (a : Nat) : (s.memRead a).2.faulted = s.faulted := rfl
@[simp] theorem State.memRead_latch (s : State) (a : Nat) : (s.memRead a).2.latch = s.latch := rfl
@[simp] theorem State.memRead_slots (s : State) (a : Nat) : (s.memRead a).2.slots = s.slots := rfl
@[simp] theorem State.memRead_phase (s : State) (a : Nat) : (s.memRead a).2.phase = s.phase := rfl
@[simp] theorem State.memRead_idx (s : State) (a : Nat) : (s.memRead a).2.idx = s.idx := rfl
@[simp] theorem State.memRead_ref (s : State) (a : Nat) : (s.memRead a).2.ref = s.ref := rfl
@[simp] theorem State.memRead_t0 (s : State) (a : Nat) : (s.memRead a).2.t0 = s.t0 := rfl
@[simp] theorem State.memRead_rbDacpd (s : State) (a : Nat) : (s.memRead a).2.rbDacpd = s.rbDacpd := rfl
@[simp] theorem State.memRead_rbDsmpd (s : State) (a : Nat) : (s.memRead a).2.rbDsmpd = s.rbDsmpd := rfl
@[simp] theorem State.memRead_rbPrediv (s : State) (a : Nat) : (s.memRead a).2.rbPrediv = s.rbPrediv := rfl
@[simp] theorem State.memRead_rbFbdiv (s : State) (a : Nat) : (s.memRead a).2.rbFbdiv = s.rbFbdiv := rfl
@[simp] theorem State.memRead_rbPostdiv (s : State) (a : Nat) : (s.memRead a).2.rbPostdiv = s.rbPostdiv := rfl
@[simp] theorem State.memRead_rbFrac (s : State) (a : Nat) : (s.memRead a).2.rbFrac = s.rbFrac := rfl
@[simp] theorem State.memRead_nowUs (s : State) (a : Nat) : (s.memRead a).2.nowUs = s.nowUs := rfl
@[simp] theorem State.memRead_bus (s : State) (a : Nat) : (s.memRead a).2.bus = s.bus := rfl
@[simp] theorem State.memRead_trace (s : State) (a : Nat) :
    (s.memRead a).2.trace = s.trace ++ [.rd a (s.busAt a)] := rfl
@[simp] theorem State.memRead_cfg (s : State) (a : Nat) : (s.memRead a).2.cfg = s.cfg := rfl
@[simp] theorem State.memRead_cfgChecked (s : State) (a : Nat) : (s.memRead a).2.cfgChecked = s.cfgChecked := rfl
@[simp] theorem State.memRead_schedule (s : State) (a : Nat) : (s.memRead a).2.schedule = s.schedule := rfl
@[simp] theorem State.memRead_draws (s : State) (a : Nat) : (s.memRead a).2.draws = s.draws := rfl
@[simp] theorem State.memRead_hostData (s : State) (a : Nat) : (s.memRead a).2.hostData = s.hostData := rfl

/-! ## `MemWrite` (20_memory.md R43) -/

@[simp] theorem State.memWrite_arg0 (s : State) (a : Nat) (v : Word) : (s.memWrite a v).arg0 = s.arg0 := rfl
@[simp] theorem State.memWrite_arg1 (s : State) (a : Nat) (v : Word) : (s.memWrite a v).arg1 = s.arg1 := rfl
@[simp] theorem State.memWrite_arg2 (s : State) (a : Nat) (v : Word) : (s.memWrite a v).arg2 = s.arg2 := rfl
@[simp] theorem State.memWrite_arg3 (s : State) (a : Nat) (v : Word) : (s.memWrite a v).arg3 = s.arg3 := rfl
@[simp] theorem State.memWrite_res0 (s : State) (a : Nat) (v : Word) : (s.memWrite a v).res0 = s.res0 := rfl
@[simp] theorem State.memWrite_res1 (s : State) (a : Nat) (v : Word) : (s.memWrite a v).res1 = s.res1 := rfl
@[simp] theorem State.memWrite_res2 (s : State) (a : Nat) (v : Word) : (s.memWrite a v).res2 = s.res2 := rfl
@[simp] theorem State.memWrite_busy (s : State) (a : Nat) (v : Word) : (s.memWrite a v).busy = s.busy := rfl
@[simp] theorem State.memWrite_found (s : State) (a : Nat) (v : Word) : (s.memWrite a v).found = s.found := rfl
@[simp] theorem State.memWrite_code (s : State) (a : Nat) (v : Word) : (s.memWrite a v).code = s.code := rfl
@[simp] theorem State.memWrite_fcode (s : State) (a : Nat) (v : Word) : (s.memWrite a v).fcode = s.fcode := rfl
@[simp] theorem State.memWrite_fslot (s : State) (a : Nat) (v : Word) : (s.memWrite a v).fslot = s.fslot := rfl
@[simp] theorem State.memWrite_faulted (s : State) (a : Nat) (v : Word) : (s.memWrite a v).faulted = s.faulted := rfl
@[simp] theorem State.memWrite_latch (s : State) (a : Nat) (v : Word) : (s.memWrite a v).latch = s.latch := rfl
@[simp] theorem State.memWrite_slots (s : State) (a : Nat) (v : Word) : (s.memWrite a v).slots = s.slots := rfl
@[simp] theorem State.memWrite_phase (s : State) (a : Nat) (v : Word) : (s.memWrite a v).phase = s.phase := rfl
@[simp] theorem State.memWrite_idx (s : State) (a : Nat) (v : Word) : (s.memWrite a v).idx = s.idx := rfl
@[simp] theorem State.memWrite_ref (s : State) (a : Nat) (v : Word) : (s.memWrite a v).ref = s.ref := rfl
@[simp] theorem State.memWrite_t0 (s : State) (a : Nat) (v : Word) : (s.memWrite a v).t0 = s.t0 := rfl
@[simp] theorem State.memWrite_rbDacpd (s : State) (a : Nat) (v : Word) : (s.memWrite a v).rbDacpd = s.rbDacpd := rfl
@[simp] theorem State.memWrite_rbDsmpd (s : State) (a : Nat) (v : Word) : (s.memWrite a v).rbDsmpd = s.rbDsmpd := rfl
@[simp] theorem State.memWrite_rbPrediv (s : State) (a : Nat) (v : Word) :
    (s.memWrite a v).rbPrediv = s.rbPrediv := rfl
@[simp] theorem State.memWrite_rbFbdiv (s : State) (a : Nat) (v : Word) : (s.memWrite a v).rbFbdiv = s.rbFbdiv := rfl
@[simp] theorem State.memWrite_rbPostdiv (s : State) (a : Nat) (v : Word) :
    (s.memWrite a v).rbPostdiv = s.rbPostdiv := rfl
@[simp] theorem State.memWrite_rbFrac (s : State) (a : Nat) (v : Word) : (s.memWrite a v).rbFrac = s.rbFrac := rfl
@[simp] theorem State.memWrite_nowUs (s : State) (a : Nat) (v : Word) : (s.memWrite a v).nowUs = s.nowUs := rfl
@[simp] theorem State.memWrite_bus (s : State) (a : Nat) (v : Word) :
    (s.memWrite a v).bus = s.bus.writeWord s.cfg.busEndian a v := rfl
@[simp] theorem State.memWrite_trace (s : State) (a : Nat) (v : Word) :
    (s.memWrite a v).trace = s.trace ++ [.wr a v] := rfl
@[simp] theorem State.memWrite_cfg (s : State) (a : Nat) (v : Word) : (s.memWrite a v).cfg = s.cfg := rfl
@[simp] theorem State.memWrite_cfgChecked (s : State) (a : Nat) (v : Word) :
    (s.memWrite a v).cfgChecked = s.cfgChecked := rfl
@[simp] theorem State.memWrite_schedule (s : State) (a : Nat) (v : Word) :
    (s.memWrite a v).schedule = s.schedule := rfl
@[simp] theorem State.memWrite_draws (s : State) (a : Nat) (v : Word) : (s.memWrite a v).draws = s.draws := rfl
@[simp] theorem State.memWrite_hostData (s : State) (a : Nat) (v : Word) :
    (s.memWrite a v).hostData = s.hostData := rfl

/-! ## `HostWr` (10_state.md R36) -/

@[simp] theorem State.hostBusWrite_arg0 (s : State) (a : Nat) (v : Word) : (s.hostBusWrite a v).arg0 = s.arg0 := rfl
@[simp] theorem State.hostBusWrite_arg1 (s : State) (a : Nat) (v : Word) : (s.hostBusWrite a v).arg1 = s.arg1 := rfl
@[simp] theorem State.hostBusWrite_arg2 (s : State) (a : Nat) (v : Word) : (s.hostBusWrite a v).arg2 = s.arg2 := rfl
@[simp] theorem State.hostBusWrite_arg3 (s : State) (a : Nat) (v : Word) : (s.hostBusWrite a v).arg3 = s.arg3 := rfl
@[simp] theorem State.hostBusWrite_res0 (s : State) (a : Nat) (v : Word) : (s.hostBusWrite a v).res0 = s.res0 := rfl
@[simp] theorem State.hostBusWrite_res1 (s : State) (a : Nat) (v : Word) : (s.hostBusWrite a v).res1 = s.res1 := rfl
@[simp] theorem State.hostBusWrite_res2 (s : State) (a : Nat) (v : Word) : (s.hostBusWrite a v).res2 = s.res2 := rfl
@[simp] theorem State.hostBusWrite_busy (s : State) (a : Nat) (v : Word) : (s.hostBusWrite a v).busy = s.busy := rfl
@[simp] theorem State.hostBusWrite_found (s : State) (a : Nat) (v : Word) :
    (s.hostBusWrite a v).found = s.found := rfl
@[simp] theorem State.hostBusWrite_code (s : State) (a : Nat) (v : Word) : (s.hostBusWrite a v).code = s.code := rfl
@[simp] theorem State.hostBusWrite_fcode (s : State) (a : Nat) (v : Word) :
    (s.hostBusWrite a v).fcode = s.fcode := rfl
@[simp] theorem State.hostBusWrite_fslot (s : State) (a : Nat) (v : Word) :
    (s.hostBusWrite a v).fslot = s.fslot := rfl
@[simp] theorem State.hostBusWrite_faulted (s : State) (a : Nat) (v : Word) :
    (s.hostBusWrite a v).faulted = s.faulted := rfl
@[simp] theorem State.hostBusWrite_latch (s : State) (a : Nat) (v : Word) :
    (s.hostBusWrite a v).latch = s.latch := rfl
@[simp] theorem State.hostBusWrite_slots (s : State) (a : Nat) (v : Word) :
    (s.hostBusWrite a v).slots = s.slots := rfl
@[simp] theorem State.hostBusWrite_phase (s : State) (a : Nat) (v : Word) :
    (s.hostBusWrite a v).phase = s.phase := rfl
@[simp] theorem State.hostBusWrite_idx (s : State) (a : Nat) (v : Word) : (s.hostBusWrite a v).idx = s.idx := rfl
@[simp] theorem State.hostBusWrite_ref (s : State) (a : Nat) (v : Word) : (s.hostBusWrite a v).ref = s.ref := rfl
@[simp] theorem State.hostBusWrite_t0 (s : State) (a : Nat) (v : Word) : (s.hostBusWrite a v).t0 = s.t0 := rfl
@[simp] theorem State.hostBusWrite_rbDacpd (s : State) (a : Nat) (v : Word) :
    (s.hostBusWrite a v).rbDacpd = s.rbDacpd := rfl
@[simp] theorem State.hostBusWrite_rbDsmpd (s : State) (a : Nat) (v : Word) :
    (s.hostBusWrite a v).rbDsmpd = s.rbDsmpd := rfl
@[simp] theorem State.hostBusWrite_rbPrediv (s : State) (a : Nat) (v : Word) :
    (s.hostBusWrite a v).rbPrediv = s.rbPrediv := rfl
@[simp] theorem State.hostBusWrite_rbFbdiv (s : State) (a : Nat) (v : Word) :
    (s.hostBusWrite a v).rbFbdiv = s.rbFbdiv := rfl
@[simp] theorem State.hostBusWrite_rbPostdiv (s : State) (a : Nat) (v : Word) :
    (s.hostBusWrite a v).rbPostdiv = s.rbPostdiv := rfl
@[simp] theorem State.hostBusWrite_rbFrac (s : State) (a : Nat) (v : Word) :
    (s.hostBusWrite a v).rbFrac = s.rbFrac := rfl
@[simp] theorem State.hostBusWrite_nowUs (s : State) (a : Nat) (v : Word) :
    (s.hostBusWrite a v).nowUs = s.nowUs := rfl
@[simp] theorem State.hostBusWrite_bus (s : State) (a : Nat) (v : Word) :
    (s.hostBusWrite a v).bus = s.bus.writeWord s.cfg.busEndian a v := rfl
@[simp] theorem State.hostBusWrite_trace (s : State) (a : Nat) (v : Word) :
    (s.hostBusWrite a v).trace = s.trace ++ [.hostWr a v] := rfl
@[simp] theorem State.hostBusWrite_cfg (s : State) (a : Nat) (v : Word) : (s.hostBusWrite a v).cfg = s.cfg := rfl
@[simp] theorem State.hostBusWrite_cfgChecked (s : State) (a : Nat) (v : Word) :
    (s.hostBusWrite a v).cfgChecked = s.cfgChecked := rfl
@[simp] theorem State.hostBusWrite_schedule (s : State) (a : Nat) (v : Word) :
    (s.hostBusWrite a v).schedule = s.schedule := rfl
@[simp] theorem State.hostBusWrite_draws (s : State) (a : Nat) (v : Word) :
    (s.hostBusWrite a v).draws = s.draws := rfl
@[simp] theorem State.hostBusWrite_hostData (s : State) (a : Nat) (v : Word) :
    (s.hostBusWrite a v).hostData = s.hostData := rfl

/-! ## `RMW` (42_field_codec.md R88) -/

@[simp] theorem State.rmw_arg0 (s : State) (a : Nat) (l : FieldLayout) (val : Word) :
    (s.rmw a l val).arg0 = s.arg0 := rfl
@[simp] theorem State.rmw_arg1 (s : State) (a : Nat) (l : FieldLayout) (val : Word) :
    (s.rmw a l val).arg1 = s.arg1 := rfl
@[simp] theorem State.rmw_arg2 (s : State) (a : Nat) (l : FieldLayout) (val : Word) :
    (s.rmw a l val).arg2 = s.arg2 := rfl
@[simp] theorem State.rmw_arg3 (s : State) (a : Nat) (l : FieldLayout) (val : Word) :
    (s.rmw a l val).arg3 = s.arg3 := rfl
@[simp] theorem State.rmw_res0 (s : State) (a : Nat) (l : FieldLayout) (val : Word) :
    (s.rmw a l val).res0 = s.res0 := rfl
@[simp] theorem State.rmw_res1 (s : State) (a : Nat) (l : FieldLayout) (val : Word) :
    (s.rmw a l val).res1 = s.res1 := rfl
@[simp] theorem State.rmw_res2 (s : State) (a : Nat) (l : FieldLayout) (val : Word) :
    (s.rmw a l val).res2 = s.res2 := rfl
@[simp] theorem State.rmw_busy (s : State) (a : Nat) (l : FieldLayout) (val : Word) :
    (s.rmw a l val).busy = s.busy := rfl
@[simp] theorem State.rmw_found (s : State) (a : Nat) (l : FieldLayout) (val : Word) :
    (s.rmw a l val).found = s.found := rfl
@[simp] theorem State.rmw_code (s : State) (a : Nat) (l : FieldLayout) (val : Word) :
    (s.rmw a l val).code = s.code := rfl
@[simp] theorem State.rmw_fcode (s : State) (a : Nat) (l : FieldLayout) (val : Word) :
    (s.rmw a l val).fcode = s.fcode := rfl
@[simp] theorem State.rmw_fslot (s : State) (a : Nat) (l : FieldLayout) (val : Word) :
    (s.rmw a l val).fslot = s.fslot := rfl
@[simp] theorem State.rmw_faulted (s : State) (a : Nat) (l : FieldLayout) (val : Word) :
    (s.rmw a l val).faulted = s.faulted := rfl
@[simp] theorem State.rmw_latch (s : State) (a : Nat) (l : FieldLayout) (val : Word) :
    (s.rmw a l val).latch = s.latch := rfl
@[simp] theorem State.rmw_slots (s : State) (a : Nat) (l : FieldLayout) (val : Word) :
    (s.rmw a l val).slots = s.slots := rfl
@[simp] theorem State.rmw_phase (s : State) (a : Nat) (l : FieldLayout) (val : Word) :
    (s.rmw a l val).phase = s.phase := rfl
@[simp] theorem State.rmw_idx (s : State) (a : Nat) (l : FieldLayout) (val : Word) :
    (s.rmw a l val).idx = s.idx := rfl
@[simp] theorem State.rmw_ref (s : State) (a : Nat) (l : FieldLayout) (val : Word) :
    (s.rmw a l val).ref = s.ref := rfl
@[simp] theorem State.rmw_t0 (s : State) (a : Nat) (l : FieldLayout) (val : Word) : (s.rmw a l val).t0 = s.t0 := rfl
@[simp] theorem State.rmw_rbDacpd (s : State) (a : Nat) (l : FieldLayout) (val : Word) :
    (s.rmw a l val).rbDacpd = s.rbDacpd := rfl
@[simp] theorem State.rmw_rbDsmpd (s : State) (a : Nat) (l : FieldLayout) (val : Word) :
    (s.rmw a l val).rbDsmpd = s.rbDsmpd := rfl
@[simp] theorem State.rmw_rbPrediv (s : State) (a : Nat) (l : FieldLayout) (val : Word) :
    (s.rmw a l val).rbPrediv = s.rbPrediv := rfl
@[simp] theorem State.rmw_rbFbdiv (s : State) (a : Nat) (l : FieldLayout) (val : Word) :
    (s.rmw a l val).rbFbdiv = s.rbFbdiv := rfl
@[simp] theorem State.rmw_rbPostdiv (s : State) (a : Nat) (l : FieldLayout) (val : Word) :
    (s.rmw a l val).rbPostdiv = s.rbPostdiv := rfl
@[simp] theorem State.rmw_rbFrac (s : State) (a : Nat) (l : FieldLayout) (val : Word) :
    (s.rmw a l val).rbFrac = s.rbFrac := rfl
@[simp] theorem State.rmw_nowUs (s : State) (a : Nat) (l : FieldLayout) (val : Word) :
    (s.rmw a l val).nowUs = s.nowUs := rfl
@[simp] theorem State.rmw_bus (s : State) (a : Nat) (l : FieldLayout) (val : Word) :
    (s.rmw a l val).bus = s.bus.writeWord s.cfg.busEndian a (insertField (s.busAt a) (fieldMask l) l.shift val) := rfl
@[simp] theorem State.rmw_trace (s : State) (a : Nat) (l : FieldLayout) (val : Word) :
    (s.rmw a l val).trace = s.trace ++ [.rd a (s.busAt a)] ++ [.wr a (insertField (s.busAt a) (fieldMask l) l.shift val)] := rfl
@[simp] theorem State.rmw_cfg (s : State) (a : Nat) (l : FieldLayout) (val : Word) :
    (s.rmw a l val).cfg = s.cfg := rfl
@[simp] theorem State.rmw_cfgChecked (s : State) (a : Nat) (l : FieldLayout) (val : Word) :
    (s.rmw a l val).cfgChecked = s.cfgChecked := rfl
@[simp] theorem State.rmw_schedule (s : State) (a : Nat) (l : FieldLayout) (val : Word) :
    (s.rmw a l val).schedule = s.schedule := rfl
@[simp] theorem State.rmw_draws (s : State) (a : Nat) (l : FieldLayout) (val : Word) :
    (s.rmw a l val).draws = s.draws := rfl
@[simp] theorem State.rmw_hostData (s : State) (a : Nat) (l : FieldLayout) (val : Word) :
    (s.rmw a l val).hostData = s.hostData := rfl

/-! ## `FieldRead` (42_field_codec.md R89) -/

@[simp] theorem State.fieldRead_arg0 (s : State) (a : Nat) (l : FieldLayout) :
    (s.fieldRead a l).2.arg0 = s.arg0 := rfl
@[simp] theorem State.fieldRead_arg1 (s : State) (a : Nat) (l : FieldLayout) :
    (s.fieldRead a l).2.arg1 = s.arg1 := rfl
@[simp] theorem State.fieldRead_arg2 (s : State) (a : Nat) (l : FieldLayout) :
    (s.fieldRead a l).2.arg2 = s.arg2 := rfl
@[simp] theorem State.fieldRead_arg3 (s : State) (a : Nat) (l : FieldLayout) :
    (s.fieldRead a l).2.arg3 = s.arg3 := rfl
@[simp] theorem State.fieldRead_res0 (s : State) (a : Nat) (l : FieldLayout) :
    (s.fieldRead a l).2.res0 = s.res0 := rfl
@[simp] theorem State.fieldRead_res1 (s : State) (a : Nat) (l : FieldLayout) :
    (s.fieldRead a l).2.res1 = s.res1 := rfl
@[simp] theorem State.fieldRead_res2 (s : State) (a : Nat) (l : FieldLayout) :
    (s.fieldRead a l).2.res2 = s.res2 := rfl
@[simp] theorem State.fieldRead_busy (s : State) (a : Nat) (l : FieldLayout) :
    (s.fieldRead a l).2.busy = s.busy := rfl
@[simp] theorem State.fieldRead_found (s : State) (a : Nat) (l : FieldLayout) :
    (s.fieldRead a l).2.found = s.found := rfl
@[simp] theorem State.fieldRead_code (s : State) (a : Nat) (l : FieldLayout) :
    (s.fieldRead a l).2.code = s.code := rfl
@[simp] theorem State.fieldRead_fcode (s : State) (a : Nat) (l : FieldLayout) :
    (s.fieldRead a l).2.fcode = s.fcode := rfl
@[simp] theorem State.fieldRead_fslot (s : State) (a : Nat) (l : FieldLayout) :
    (s.fieldRead a l).2.fslot = s.fslot := rfl
@[simp] theorem State.fieldRead_faulted (s : State) (a : Nat) (l : FieldLayout) :
    (s.fieldRead a l).2.faulted = s.faulted := rfl
@[simp] theorem State.fieldRead_latch (s : State) (a : Nat) (l : FieldLayout) :
    (s.fieldRead a l).2.latch = s.latch := rfl
@[simp] theorem State.fieldRead_slots (s : State) (a : Nat) (l : FieldLayout) :
    (s.fieldRead a l).2.slots = s.slots := rfl
@[simp] theorem State.fieldRead_phase (s : State) (a : Nat) (l : FieldLayout) :
    (s.fieldRead a l).2.phase = s.phase := rfl
@[simp] theorem State.fieldRead_idx (s : State) (a : Nat) (l : FieldLayout) : (s.fieldRead a l).2.idx = s.idx := rfl
@[simp] theorem State.fieldRead_ref (s : State) (a : Nat) (l : FieldLayout) : (s.fieldRead a l).2.ref = s.ref := rfl
@[simp] theorem State.fieldRead_t0 (s : State) (a : Nat) (l : FieldLayout) : (s.fieldRead a l).2.t0 = s.t0 := rfl
@[simp] theorem State.fieldRead_rbDacpd (s : State) (a : Nat) (l : FieldLayout) :
    (s.fieldRead a l).2.rbDacpd = s.rbDacpd := rfl
@[simp] theorem State.fieldRead_rbDsmpd (s : State) (a : Nat) (l : FieldLayout) :
    (s.fieldRead a l).2.rbDsmpd = s.rbDsmpd := rfl
@[simp] theorem State.fieldRead_rbPrediv (s : State) (a : Nat) (l : FieldLayout) :
    (s.fieldRead a l).2.rbPrediv = s.rbPrediv := rfl
@[simp] theorem State.fieldRead_rbFbdiv (s : State) (a : Nat) (l : FieldLayout) :
    (s.fieldRead a l).2.rbFbdiv = s.rbFbdiv := rfl
@[simp] theorem State.fieldRead_rbPostdiv (s : State) (a : Nat) (l : FieldLayout) :
    (s.fieldRead a l).2.rbPostdiv = s.rbPostdiv := rfl
@[simp] theorem State.fieldRead_rbFrac (s : State) (a : Nat) (l : FieldLayout) :
    (s.fieldRead a l).2.rbFrac = s.rbFrac := rfl
@[simp] theorem State.fieldRead_nowUs (s : State) (a : Nat) (l : FieldLayout) :
    (s.fieldRead a l).2.nowUs = s.nowUs := rfl
@[simp] theorem State.fieldRead_bus (s : State) (a : Nat) (l : FieldLayout) : (s.fieldRead a l).2.bus = s.bus := rfl
@[simp] theorem State.fieldRead_trace (s : State) (a : Nat) (l : FieldLayout) :
    (s.fieldRead a l).2.trace = s.trace ++ [.rd a (s.busAt a)] := rfl
@[simp] theorem State.fieldRead_cfg (s : State) (a : Nat) (l : FieldLayout) : (s.fieldRead a l).2.cfg = s.cfg := rfl
@[simp] theorem State.fieldRead_cfgChecked (s : State) (a : Nat) (l : FieldLayout) :
    (s.fieldRead a l).2.cfgChecked = s.cfgChecked := rfl
@[simp] theorem State.fieldRead_schedule (s : State) (a : Nat) (l : FieldLayout) :
    (s.fieldRead a l).2.schedule = s.schedule := rfl
@[simp] theorem State.fieldRead_draws (s : State) (a : Nat) (l : FieldLayout) :
    (s.fieldRead a l).2.draws = s.draws := rfl
@[simp] theorem State.fieldRead_hostData (s : State) (a : Nat) (l : FieldLayout) :
    (s.fieldRead a l).2.hostData = s.hostData := rfl

/-! ## the binding of a slot (45_instance_create.md R131) -/

@[simp] theorem State.bind_arg0 (s : State) (i : SlotId) (v : Variant) (base : DWord) (auxp : Bool) (aux : DWord) :
    (s.bind i v base auxp aux).arg0 = s.arg0 := rfl
@[simp] theorem State.bind_arg1 (s : State) (i : SlotId) (v : Variant) (base : DWord) (auxp : Bool) (aux : DWord) :
    (s.bind i v base auxp aux).arg1 = s.arg1 := rfl
@[simp] theorem State.bind_arg2 (s : State) (i : SlotId) (v : Variant) (base : DWord) (auxp : Bool) (aux : DWord) :
    (s.bind i v base auxp aux).arg2 = s.arg2 := rfl
@[simp] theorem State.bind_arg3 (s : State) (i : SlotId) (v : Variant) (base : DWord) (auxp : Bool) (aux : DWord) :
    (s.bind i v base auxp aux).arg3 = s.arg3 := rfl
@[simp] theorem State.bind_res0 (s : State) (i : SlotId) (v : Variant) (base : DWord) (auxp : Bool) (aux : DWord) :
    (s.bind i v base auxp aux).res0 = s.res0 := rfl
@[simp] theorem State.bind_res1 (s : State) (i : SlotId) (v : Variant) (base : DWord) (auxp : Bool) (aux : DWord) :
    (s.bind i v base auxp aux).res1 = s.res1 := rfl
@[simp] theorem State.bind_res2 (s : State) (i : SlotId) (v : Variant) (base : DWord) (auxp : Bool) (aux : DWord) :
    (s.bind i v base auxp aux).res2 = s.res2 := rfl
@[simp] theorem State.bind_busy (s : State) (i : SlotId) (v : Variant) (base : DWord) (auxp : Bool) (aux : DWord) :
    (s.bind i v base auxp aux).busy = s.busy := rfl
@[simp] theorem State.bind_found (s : State) (i : SlotId) (v : Variant) (base : DWord) (auxp : Bool) (aux : DWord) :
    (s.bind i v base auxp aux).found = s.found := rfl
@[simp] theorem State.bind_code (s : State) (i : SlotId) (v : Variant) (base : DWord) (auxp : Bool) (aux : DWord) :
    (s.bind i v base auxp aux).code = s.code := rfl
@[simp] theorem State.bind_fcode (s : State) (i : SlotId) (v : Variant) (base : DWord) (auxp : Bool) (aux : DWord) :
    (s.bind i v base auxp aux).fcode = s.fcode := rfl
@[simp] theorem State.bind_fslot (s : State) (i : SlotId) (v : Variant) (base : DWord) (auxp : Bool) (aux : DWord) :
    (s.bind i v base auxp aux).fslot = s.fslot := rfl
@[simp] theorem State.bind_faulted (s : State) (i : SlotId) (v : Variant) (base : DWord) (auxp : Bool) (aux : DWord) :
    (s.bind i v base auxp aux).faulted = s.faulted := rfl
@[simp] theorem State.bind_latch (s : State) (i : SlotId) (v : Variant) (base : DWord) (auxp : Bool) (aux : DWord) :
    (s.bind i v base auxp aux).latch = s.latch := rfl
@[simp] theorem State.bind_slots (s : State) (i : SlotId) (v : Variant) (base : DWord) (auxp : Bool) (aux : DWord) :
    (s.bind i v base auxp aux).slots = s.slots.set i { valid := true, variant := v, base := base, auxp := auxp, aux := if auxp then aux else 0 } := rfl
@[simp] theorem State.bind_phase (s : State) (i : SlotId) (v : Variant) (base : DWord) (auxp : Bool) (aux : DWord) :
    (s.bind i v base auxp aux).phase = s.phase := rfl
@[simp] theorem State.bind_idx (s : State) (i : SlotId) (v : Variant) (base : DWord) (auxp : Bool) (aux : DWord) :
    (s.bind i v base auxp aux).idx = s.idx := rfl
@[simp] theorem State.bind_ref (s : State) (i : SlotId) (v : Variant) (base : DWord) (auxp : Bool) (aux : DWord) :
    (s.bind i v base auxp aux).ref = s.ref := rfl
@[simp] theorem State.bind_t0 (s : State) (i : SlotId) (v : Variant) (base : DWord) (auxp : Bool) (aux : DWord) :
    (s.bind i v base auxp aux).t0 = s.t0 := rfl
@[simp] theorem State.bind_rbDacpd (s : State) (i : SlotId) (v : Variant) (base : DWord) (auxp : Bool) (aux : DWord) :
    (s.bind i v base auxp aux).rbDacpd = s.rbDacpd := rfl
@[simp] theorem State.bind_rbDsmpd (s : State) (i : SlotId) (v : Variant) (base : DWord) (auxp : Bool) (aux : DWord) :
    (s.bind i v base auxp aux).rbDsmpd = s.rbDsmpd := rfl
@[simp] theorem State.bind_rbPrediv (s : State) (i : SlotId) (v : Variant) (base : DWord) (auxp : Bool) (aux : DWord) :
    (s.bind i v base auxp aux).rbPrediv = s.rbPrediv := rfl
@[simp] theorem State.bind_rbFbdiv (s : State) (i : SlotId) (v : Variant) (base : DWord) (auxp : Bool) (aux : DWord) :
    (s.bind i v base auxp aux).rbFbdiv = s.rbFbdiv := rfl
@[simp] theorem State.bind_rbPostdiv (s : State) (i : SlotId) (v : Variant) (base : DWord) (auxp : Bool) (aux : DWord) :
    (s.bind i v base auxp aux).rbPostdiv = s.rbPostdiv := rfl
@[simp] theorem State.bind_rbFrac (s : State) (i : SlotId) (v : Variant) (base : DWord) (auxp : Bool) (aux : DWord) :
    (s.bind i v base auxp aux).rbFrac = s.rbFrac := rfl
@[simp] theorem State.bind_nowUs (s : State) (i : SlotId) (v : Variant) (base : DWord) (auxp : Bool) (aux : DWord) :
    (s.bind i v base auxp aux).nowUs = s.nowUs := rfl
@[simp] theorem State.bind_bus (s : State) (i : SlotId) (v : Variant) (base : DWord) (auxp : Bool) (aux : DWord) :
    (s.bind i v base auxp aux).bus = s.bus := rfl
@[simp] theorem State.bind_trace (s : State) (i : SlotId) (v : Variant) (base : DWord) (auxp : Bool) (aux : DWord) :
    (s.bind i v base auxp aux).trace = s.trace := rfl
@[simp] theorem State.bind_cfg (s : State) (i : SlotId) (v : Variant) (base : DWord) (auxp : Bool) (aux : DWord) :
    (s.bind i v base auxp aux).cfg = s.cfg := rfl
@[simp] theorem State.bind_cfgChecked (s : State) (i : SlotId) (v : Variant) (base : DWord) (auxp : Bool) (aux : DWord) :
    (s.bind i v base auxp aux).cfgChecked = s.cfgChecked := rfl
@[simp] theorem State.bind_schedule (s : State) (i : SlotId) (v : Variant) (base : DWord) (auxp : Bool) (aux : DWord) :
    (s.bind i v base auxp aux).schedule = s.schedule := rfl
@[simp] theorem State.bind_draws (s : State) (i : SlotId) (v : Variant) (base : DWord) (auxp : Bool) (aux : DWord) :
    (s.bind i v base auxp aux).draws = s.draws := rfl
@[simp] theorem State.bind_hostData (s : State) (i : SlotId) (v : Variant) (base : DWord) (auxp : Bool) (aux : DWord) :
    (s.bind i v base auxp aux).hostData = s.hostData := rfl

/-! ## the passage of time (60_exceptions.md R153) -/

@[simp] theorem State.advance_arg0 (s : State) (d : Nat) : (s.advance d).arg0 = s.arg0 := rfl
@[simp] theorem State.advance_arg1 (s : State) (d : Nat) : (s.advance d).arg1 = s.arg1 := rfl
@[simp] theorem State.advance_arg2 (s : State) (d : Nat) : (s.advance d).arg2 = s.arg2 := rfl
@[simp] theorem State.advance_arg3 (s : State) (d : Nat) : (s.advance d).arg3 = s.arg3 := rfl
@[simp] theorem State.advance_res0 (s : State) (d : Nat) : (s.advance d).res0 = s.res0 := rfl
@[simp] theorem State.advance_res1 (s : State) (d : Nat) : (s.advance d).res1 = s.res1 := rfl
@[simp] theorem State.advance_res2 (s : State) (d : Nat) : (s.advance d).res2 = s.res2 := rfl
@[simp] theorem State.advance_busy (s : State) (d : Nat) : (s.advance d).busy = s.busy := rfl
@[simp] theorem State.advance_found (s : State) (d : Nat) : (s.advance d).found = s.found := rfl
@[simp] theorem State.advance_code (s : State) (d : Nat) : (s.advance d).code = s.code := rfl
@[simp] theorem State.advance_fcode (s : State) (d : Nat) : (s.advance d).fcode = s.fcode := rfl
@[simp] theorem State.advance_fslot (s : State) (d : Nat) : (s.advance d).fslot = s.fslot := rfl
@[simp] theorem State.advance_faulted (s : State) (d : Nat) : (s.advance d).faulted = s.faulted := rfl
@[simp] theorem State.advance_latch (s : State) (d : Nat) : (s.advance d).latch = s.latch := rfl
@[simp] theorem State.advance_slots (s : State) (d : Nat) : (s.advance d).slots = s.slots := rfl
@[simp] theorem State.advance_phase (s : State) (d : Nat) : (s.advance d).phase = s.phase := rfl
@[simp] theorem State.advance_idx (s : State) (d : Nat) : (s.advance d).idx = s.idx := rfl
@[simp] theorem State.advance_ref (s : State) (d : Nat) : (s.advance d).ref = s.ref := rfl
@[simp] theorem State.advance_t0 (s : State) (d : Nat) : (s.advance d).t0 = s.t0 := rfl
@[simp] theorem State.advance_rbDacpd (s : State) (d : Nat) : (s.advance d).rbDacpd = s.rbDacpd := rfl
@[simp] theorem State.advance_rbDsmpd (s : State) (d : Nat) : (s.advance d).rbDsmpd = s.rbDsmpd := rfl
@[simp] theorem State.advance_rbPrediv (s : State) (d : Nat) : (s.advance d).rbPrediv = s.rbPrediv := rfl
@[simp] theorem State.advance_rbFbdiv (s : State) (d : Nat) : (s.advance d).rbFbdiv = s.rbFbdiv := rfl
@[simp] theorem State.advance_rbPostdiv (s : State) (d : Nat) : (s.advance d).rbPostdiv = s.rbPostdiv := rfl
@[simp] theorem State.advance_rbFrac (s : State) (d : Nat) : (s.advance d).rbFrac = s.rbFrac := rfl
@[simp] theorem State.advance_nowUs (s : State) (d : Nat) :
    (s.advance d).nowUs = BitVec.ofNat 64 (s.nowUs.toNat + d) := rfl
@[simp] theorem State.advance_bus (s : State) (d : Nat) : (s.advance d).bus = s.bus := rfl
@[simp] theorem State.advance_trace (s : State) (d : Nat) : (s.advance d).trace = s.trace := rfl
@[simp] theorem State.advance_cfg (s : State) (d : Nat) : (s.advance d).cfg = s.cfg := rfl
@[simp] theorem State.advance_cfgChecked (s : State) (d : Nat) : (s.advance d).cfgChecked = s.cfgChecked := rfl
@[simp] theorem State.advance_schedule (s : State) (d : Nat) : (s.advance d).schedule = s.schedule := rfl
@[simp] theorem State.advance_draws (s : State) (d : Nat) : (s.advance d).draws = s.draws := rfl
@[simp] theorem State.advance_hostData (s : State) (d : Nat) : (s.advance d).hostData = s.hostData := rfl

/-! ## command acceptance (30_encoding.md R66) -/

@[simp] theorem State.accept_arg0 (s : State) (w : Word) : (s.accept w).arg0 = s.arg0 := rfl
@[simp] theorem State.accept_arg1 (s : State) (w : Word) : (s.accept w).arg1 = s.arg1 := rfl
@[simp] theorem State.accept_arg2 (s : State) (w : Word) : (s.accept w).arg2 = s.arg2 := rfl
@[simp] theorem State.accept_arg3 (s : State) (w : Word) : (s.accept w).arg3 = s.arg3 := rfl
@[simp] theorem State.accept_res0 (s : State) (w : Word) : (s.accept w).res0 = 0 := rfl
@[simp] theorem State.accept_res1 (s : State) (w : Word) : (s.accept w).res1 = 0 := rfl
@[simp] theorem State.accept_res2 (s : State) (w : Word) : (s.accept w).res2 = 0 := rfl
@[simp] theorem State.accept_busy (s : State) (w : Word) : (s.accept w).busy = true := rfl
@[simp] theorem State.accept_found (s : State) (w : Word) : (s.accept w).found = false := rfl
@[simp] theorem State.accept_code (s : State) (w : Word) : (s.accept w).code = 0 := rfl
@[simp] theorem State.accept_fcode (s : State) (w : Word) : (s.accept w).fcode = s.fcode := rfl
@[simp] theorem State.accept_fslot (s : State) (w : Word) : (s.accept w).fslot = s.fslot := rfl
@[simp] theorem State.accept_faulted (s : State) (w : Word) : (s.accept w).faulted = s.faulted := rfl
@[simp] theorem State.accept_latch (s : State) (w : Word) : (s.accept w).latch = s.latchOf w := rfl
@[simp] theorem State.accept_slots (s : State) (w : Word) : (s.accept w).slots = s.slots := rfl
@[simp] theorem State.accept_phase (s : State) (w : Word) : (s.accept w).phase = .decode := rfl
@[simp] theorem State.accept_idx (s : State) (w : Word) : (s.accept w).idx = s.idx := rfl
@[simp] theorem State.accept_ref (s : State) (w : Word) : (s.accept w).ref = s.ref := rfl
@[simp] theorem State.accept_t0 (s : State) (w : Word) : (s.accept w).t0 = s.t0 := rfl
@[simp] theorem State.accept_rbDacpd (s : State) (w : Word) : (s.accept w).rbDacpd = s.rbDacpd := rfl
@[simp] theorem State.accept_rbDsmpd (s : State) (w : Word) : (s.accept w).rbDsmpd = s.rbDsmpd := rfl
@[simp] theorem State.accept_rbPrediv (s : State) (w : Word) : (s.accept w).rbPrediv = s.rbPrediv := rfl
@[simp] theorem State.accept_rbFbdiv (s : State) (w : Word) : (s.accept w).rbFbdiv = s.rbFbdiv := rfl
@[simp] theorem State.accept_rbPostdiv (s : State) (w : Word) : (s.accept w).rbPostdiv = s.rbPostdiv := rfl
@[simp] theorem State.accept_rbFrac (s : State) (w : Word) : (s.accept w).rbFrac = s.rbFrac := rfl
@[simp] theorem State.accept_nowUs (s : State) (w : Word) : (s.accept w).nowUs = s.nowUs := rfl
@[simp] theorem State.accept_bus (s : State) (w : Word) : (s.accept w).bus = s.bus := rfl
@[simp] theorem State.accept_trace (s : State) (w : Word) : (s.accept w).trace = s.trace := rfl
@[simp] theorem State.accept_cfg (s : State) (w : Word) : (s.accept w).cfg = s.cfg := rfl
@[simp] theorem State.accept_cfgChecked (s : State) (w : Word) : (s.accept w).cfgChecked = s.cfgChecked := rfl
@[simp] theorem State.accept_schedule (s : State) (w : Word) : (s.accept w).schedule = s.schedule := rfl
@[simp] theorem State.accept_draws (s : State) (w : Word) : (s.accept w).draws = s.draws := rfl
@[simp] theorem State.accept_hostData (s : State) (w : Word) : (s.accept w).hostData = s.hostData := rfl

/-! ## reset of the block (70_reset_and_hazards.md R159) -/

@[simp] theorem State.resetBlock_arg0 (s : State) : s.resetBlock.arg0 = 0 := rfl
@[simp] theorem State.resetBlock_arg1 (s : State) : s.resetBlock.arg1 = 0 := rfl
@[simp] theorem State.resetBlock_arg2 (s : State) : s.resetBlock.arg2 = 0 := rfl
@[simp] theorem State.resetBlock_arg3 (s : State) : s.resetBlock.arg3 = 0 := rfl
@[simp] theorem State.resetBlock_res0 (s : State) : s.resetBlock.res0 = 0 := rfl
@[simp] theorem State.resetBlock_res1 (s : State) : s.resetBlock.res1 = 0 := rfl
@[simp] theorem State.resetBlock_res2 (s : State) : s.resetBlock.res2 = 0 := rfl
@[simp] theorem State.resetBlock_busy (s : State) : s.resetBlock.busy = false := rfl
@[simp] theorem State.resetBlock_found (s : State) : s.resetBlock.found = false := rfl
@[simp] theorem State.resetBlock_code (s : State) : s.resetBlock.code = 0 := rfl
@[simp] theorem State.resetBlock_fcode (s : State) : s.resetBlock.fcode = 0 := rfl
@[simp] theorem State.resetBlock_fslot (s : State) : s.resetBlock.fslot = 0 := rfl
@[simp] theorem State.resetBlock_faulted (s : State) : s.resetBlock.faulted = false := rfl
@[simp] theorem State.resetBlock_latch (s : State) : s.resetBlock.latch = Latch.zero := rfl
@[simp] theorem State.resetBlock_slots (s : State) :
    s.resetBlock.slots = { s0 := Slot.unbound, s1 := Slot.unbound, s2 := Slot.unbound } := rfl
@[simp] theorem State.resetBlock_phase (s : State) : s.resetBlock.phase = .idle := rfl
@[simp] theorem State.resetBlock_idx (s : State) : s.resetBlock.idx = 0 := rfl
@[simp] theorem State.resetBlock_ref (s : State) : s.resetBlock.ref = 0 := rfl
@[simp] theorem State.resetBlock_t0 (s : State) : s.resetBlock.t0 = 0 := rfl
@[simp] theorem State.resetBlock_rbDacpd (s : State) : s.resetBlock.rbDacpd = 0 := rfl
@[simp] theorem State.resetBlock_rbDsmpd (s : State) : s.resetBlock.rbDsmpd = 0 := rfl
@[simp] theorem State.resetBlock_rbPrediv (s : State) : s.resetBlock.rbPrediv = 0 := rfl
@[simp] theorem State.resetBlock_rbFbdiv (s : State) : s.resetBlock.rbFbdiv = 0 := rfl
@[simp] theorem State.resetBlock_rbPostdiv (s : State) : s.resetBlock.rbPostdiv = 0 := rfl
@[simp] theorem State.resetBlock_rbFrac (s : State) : s.resetBlock.rbFrac = 0 := rfl
@[simp] theorem State.resetBlock_nowUs (s : State) : s.resetBlock.nowUs = s.nowUs := rfl
@[simp] theorem State.resetBlock_bus (s : State) : s.resetBlock.bus = s.bus := rfl
@[simp] theorem State.resetBlock_trace (s : State) : s.resetBlock.trace = [] := rfl
@[simp] theorem State.resetBlock_cfg (s : State) : s.resetBlock.cfg = s.cfg := rfl
@[simp] theorem State.resetBlock_cfgChecked (s : State) : s.resetBlock.cfgChecked = s.cfgChecked := rfl
@[simp] theorem State.resetBlock_schedule (s : State) : s.resetBlock.schedule = s.schedule := rfl
@[simp] theorem State.resetBlock_draws (s : State) : s.resetBlock.draws = s.draws := rfl
@[simp] theorem State.resetBlock_hostData (s : State) : s.resetBlock.hostData = s.hostData := rfl

/-! ## one read of `WAIT` (30_encoding.md R71) -/

@[simp] theorem State.movePoll_arg0 (s : State) : s.movePoll.arg0 = s.arg0 := rfl
@[simp] theorem State.movePoll_arg1 (s : State) : s.movePoll.arg1 = s.arg1 := rfl
@[simp] theorem State.movePoll_arg2 (s : State) : s.movePoll.arg2 = s.arg2 := rfl
@[simp] theorem State.movePoll_arg3 (s : State) : s.movePoll.arg3 = s.arg3 := rfl
@[simp] theorem State.movePoll_res0 (s : State) : s.movePoll.res0 = s.res0 := rfl
@[simp] theorem State.movePoll_res1 (s : State) : s.movePoll.res1 = s.res1 := rfl
@[simp] theorem State.movePoll_res2 (s : State) : s.movePoll.res2 = s.res2 := rfl
@[simp] theorem State.movePoll_busy (s : State) : s.movePoll.busy = s.busy := rfl
@[simp] theorem State.movePoll_found (s : State) : s.movePoll.found = s.found := rfl
@[simp] theorem State.movePoll_code (s : State) : s.movePoll.code = s.code := rfl
@[simp] theorem State.movePoll_fcode (s : State) : s.movePoll.fcode = s.fcode := rfl
@[simp] theorem State.movePoll_fslot (s : State) : s.movePoll.fslot = s.fslot := rfl
@[simp] theorem State.movePoll_faulted (s : State) : s.movePoll.faulted = s.faulted := rfl
@[simp] theorem State.movePoll_latch (s : State) : s.movePoll.latch = s.latch := rfl
@[simp] theorem State.movePoll_slots (s : State) : s.movePoll.slots = s.slots := rfl
@[simp] theorem State.movePoll_phase (s : State) : s.movePoll.phase = s.phase := rfl
@[simp] theorem State.movePoll_idx (s : State) : s.movePoll.idx = s.idx := rfl
@[simp] theorem State.movePoll_ref (s : State) : s.movePoll.ref = s.ref := rfl
@[simp] theorem State.movePoll_t0 (s : State) : s.movePoll.t0 = s.t0 := rfl
@[simp] theorem State.movePoll_rbDacpd (s : State) : s.movePoll.rbDacpd = s.rbDacpd := rfl
@[simp] theorem State.movePoll_rbDsmpd (s : State) : s.movePoll.rbDsmpd = s.rbDsmpd := rfl
@[simp] theorem State.movePoll_rbPrediv (s : State) : s.movePoll.rbPrediv = s.rbPrediv := rfl
@[simp] theorem State.movePoll_rbFbdiv (s : State) : s.movePoll.rbFbdiv = s.rbFbdiv := rfl
@[simp] theorem State.movePoll_rbPostdiv (s : State) : s.movePoll.rbPostdiv = s.rbPostdiv := rfl
@[simp] theorem State.movePoll_rbFrac (s : State) : s.movePoll.rbFrac = s.rbFrac := rfl
@[simp] theorem State.movePoll_nowUs (s : State) : s.movePoll.nowUs = s.nowUs := rfl
@[simp] theorem State.movePoll_bus (s : State) : s.movePoll.bus = s.bus := rfl
@[simp] theorem State.movePoll_trace (s : State) : s.movePoll.trace = s.trace := rfl
@[simp] theorem State.movePoll_cfg (s : State) : s.movePoll.cfg = s.cfg := rfl
@[simp] theorem State.movePoll_cfgChecked (s : State) : s.movePoll.cfgChecked = s.cfgChecked := rfl
@[simp] theorem State.movePoll_schedule (s : State) :
    s.movePoll.schedule = if s.busy then .others :: .wait :: s.schedule else s.schedule := rfl
@[simp] theorem State.movePoll_draws (s : State) : s.movePoll.draws = s.draws := rfl
@[simp] theorem State.movePoll_hostData (s : State) : s.movePoll.hostData = s.statusWord := rfl

end Sys2Proof.Machine
end

