-- ==== Sys2Proof/Laws/Ops.lean ====
section
/-! SUPPORT. What each shared operation can do, said once: the bus micro-operations, the phases of the commands without bus
access, the search of a table, the passage of time. -/

namespace Sys2Proof.Machine

@[simp] theorem next_inj {s t : State} :
    ((.next s : Result) = .next t) ↔ s = t :=
  ⟨Host.Outcome.next.inj, congrArg _⟩

/-- A bus step that goes on is at an address the bus has (20_memory.md R42, R43). -/
theorem State.onBus_eq_next {s k t : State} {a : Nat} :
    s.onBus a k = .next t ↔ s.busOk a = true ∧ k = t := by
  unfold State.onBus
  split <;> simp_all

theorem State.onBus_of_busOk {s k : State} {a : Nat} (h : s.busOk a = true) : s.onBus a k = .next k := by
  simp [State.onBus, h]

/-- A bus step stops only at an address the bus does not have. -/
theorem State.onBus_eq_fault {s k : State} {a : Nat} {r : Fault} :
    s.onBus a k = .fault r ↔ s.busOk a = false ∧ r = .busAddress := by
  unfold State.onBus
  cases s.busOk a <;> simp [eq_comm]

theorem State.busOk_iff {s : State} {a : Nat} : s.busOk a = true ↔ a % 4 = 0 ∧ a < 2 ^ s.cfg.addrW := by
  simp [State.busOk]

/-- The register an `RMW` names, after it (42_field_codec.md R88). -/
theorem State.rmw_busAt_same {s : State} (h : s.bus.wf = true) (a : Nat) (l : FieldLayout) (val : Word) :
    (s.rmw a l val).busAt a = insertField (s.busAt a) (fieldMask l) l.shift val := by
  simp only [State.busAt, State.rmw_bus, State.rmw_cfg]
  rw [Memory.readWord_writeWord_same h]

/-- Every register apart from the one an `RMW` names. -/
theorem State.rmw_busAt_apart (s : State) {a b : Nat} (l : FieldLayout) (val : Word) (h : b + 4 ≤ a ∨ a + 4 ≤ b) :
    (s.rmw a l val).busAt b = s.busAt b := by
  simp only [State.busAt, State.rmw_bus, State.rmw_cfg]
  exact Memory.readWord_writeWord_apart _ _ _ h

/-- Every byte outside the register an `RMW` names. -/
theorem State.rmw_readByte_outside (s : State) {a b : Nat} (l : FieldLayout) (val : Word) (h : b < a ∨ a + 4 ≤ b) :
    (s.rmw a l val).bus.readByte b = s.bus.readByte b := by
  rw [State.rmw_bus]
  exact Memory.readByte_writeWord_outside _ _ _ h

theorem State.rmw_bus_wf {s : State} (h : s.bus.wf = true) (a : Nat) (l : FieldLayout) (val : Word) :
    (s.rmw a l val).bus.wf = true := by
  rw [State.rmw_bus]
  exact Memory.writeWord_wf h _ _ _

/-- A command without bus access steps in `DECODE`, to `EXEC`, and in `EXEC`, with its effect; in no other phase. -/
theorem State.decodeThenExec_eq_next {s t : State} {g : State → State} :
    s.decodeThenExec g = .next t ↔
      (s.phase = .decode ∧ { s with phase := .exec } = t) ∨ (s.phase = .exec ∧ g s = t) := by
  unfold State.decodeThenExec
  cases hp : s.phase <;> simp

/-- A command whose extra condition fails only raises `ILLEGAL_COMMAND`, in `DECODE`. -/
theorem State.illegal_eq_next {s t : State} :
    s.illegal = .next t ↔ s.phase = .decode ∧ s.raise .illegalCommand = t := by
  unfold State.illegal
  cases hp : s.phase <;> simp

/-- The time source moves by some `d >= 1`, without wrapping (60_exceptions.md R153). -/
theorem State.timePasses_eq_next {s t : State} (h : s.timePasses = .next t) :
    ∃ d, 1 ≤ d ∧ s.nowUs.toNat + d < 2 ^ 64 ∧ t = { s.advance d with draws := s.draws + 1 } := by
  simp only [State.timePasses] at h
  split at h
  · cases h
  · next hr =>
    refine ⟨_, ?_, ?_, (Host.Outcome.next.inj h).symm⟩
    · omega
    · have := Nat.mod_lt (Config.timeDraw s.draws).toNat (Nat.pos_of_ne_zero hr)
      omega

/-- The time source moves unless `NOW_US` is at its end. -/
theorem State.timePasses_next {s : State} (h : s.nowUs.toNat + 1 < 2 ^ 64) :
    ∃ d, 1 ≤ d ∧ s.nowUs.toNat + d < 2 ^ 64 ∧ s.timePasses = .next { s.advance d with draws := s.draws + 1 } := by
  cases hs : s.timePasses with
  | next t =>
    obtain ⟨d, h1, h2, h3⟩ := State.timePasses_eq_next hs
    exact ⟨d, h1, h2, by rw [h3]⟩
  | fault r => simp only [State.timePasses] at hs; split at hs <;> first | omega | cases hs
  | refused r => simp only [State.timePasses] at hs; split at hs <;> cases hs

theorem State.timePasses_eq_fault {s : State} {r : Fault} (h : s.timePasses = .fault r) :
    r = .timeExhausted ∧ s.nowUs.toNat = 2 ^ 64 - 1 := by
  simp only [State.timePasses] at h
  have := s.nowUs.isLt
  split at h
  · exact ⟨(Host.Outcome.fault.inj h).symm, by omega⟩
  · cases h

theorem State.advance_toNat {s : State} {d : Nat} (h : s.nowUs.toNat + d < 2 ^ 64) :
    (s.advance d).nowUs.toNat = s.nowUs.toNat + d := by
  simp only [State.advance_nowUs, BitVec.toNat_ofNat]
  exact Nat.mod_eq_of_lt h

theorem findFrom_eq_some {es : List RateEntry} {t : DWord} : ∀ {i n : Nat}, findFrom i es t = some n →
    ∃ m e, n = i + m ∧ es[m]? = some e ∧ e.target = t := by
  induction es with
  | nil => intro i n h; cases h
  | cons e es ih =>
    intro i n h
    unfold findFrom at h
    split at h
    · next he => exact ⟨0, e, by simpa using h.symm, rfl, he⟩
    · obtain ⟨m, x, h1, h2, h3⟩ := ih h
      exact ⟨m + 1, x, by omega, by simpa using h2, h3⟩

/-- What the search finds is an entry with the target (41_rate_lookup.md R74). -/
theorem findRate_eq_some {es : List RateEntry} {t : DWord} {n : Nat} (h : findRate es t = some n) :
    ∃ e, es[n]? = some e ∧ e.target = t := by
  obtain ⟨m, e, h1, h2, h3⟩ := findFrom_eq_some h
  have : n = m := by omega
  exact ⟨e, by rw [this]; exact h2, h3⟩

theorem findFrom_eq_none {es : List RateEntry} {t : DWord} : ∀ {i : Nat},
    findFrom i es t = none ↔ ∀ e ∈ es, e.target ≠ t := by
  induction es with
  | nil => intro i; simp [findFrom]
  | cons e es ih =>
    intro i
    unfold findFrom
    by_cases he : e.target = t
    · simp [he]
    · simp [he, ih]

/-- The search finds nothing exactly when no entry has the target (41_rate_lookup.md R74). -/
theorem findRate_eq_none {es : List RateEntry} {t : DWord} :
    findRate es t = none ↔ ∀ e ∈ es, e.target ≠ t := findFrom_eq_none

theorem findFrom_of_getElem {es : List RateEntry} {t : DWord} : ∀ {i n : Nat} {e : RateEntry},
    targetsDistinct es = true → es[n]? = some e → e.target = t → findFrom i es t = some (i + n) := by
  induction es with
  | nil => intro i n e _ h _; simp at h
  | cons x es ih =>
    intro i n e hd hn ht
    simp only [targetsDistinct, Bool.and_eq_true, List.all_eq_true] at hd
    unfold findFrom
    cases n with
    | zero =>
      have : x = e := by simpa using hn
      simp [this, ht]
    | succ n =>
      have hn' : es[n]? = some e := by simpa using hn
      have hne : x.target ≠ t := by
        have := hd.1 e (List.mem_of_getElem? hn')
        rw [ht] at this
        exact fun hx => by simp [hx] at this
      simp only [hne, if_false]
      rw [ih hd.2 hn' ht]
      congr 1; omega

/-- In a table whose targets are distinct, the search finds the entry that has the target (41_rate_lookup.md R72 item 2,
R74). -/
theorem findRate_of_getElem {es : List RateEntry} {t : DWord} {n : Nat} {e : RateEntry}
    (hd : targetsDistinct es = true) (hn : es[n]? = some e) (ht : e.target = t) : findRate es t = some n := by
  simpa [findRate] using findFrom_of_getElem (i := 0) hd hn ht

/-- What a bus read of a field leaves. -/
theorem State.readBack_eq_next {s t : State} {i : SlotId} {f : FieldId} {put : Word → State → State} :
    s.readBack i f put = .next t ↔
      s.busOk (s.fieldAddr i f) = true ∧
        put (s.fieldRead (s.fieldAddr i f) (s.slotLayout i f)).1 (s.fieldRead (s.fieldAddr i f) (s.slotLayout i f)).2 = t :=
  State.onBus_eq_next

/-- `DECODE` of an instance command goes on for a bound slot, and raises `NO_INSTANCE` for an unbound one
(30_encoding.md R67). -/
theorem State.decodeBound_cases (s : State) (i : SlotId) (n : State) :
    ((s.slot i).valid = true ∧ s.decodeBound i n = n) ∨
      ((s.slot i).valid = false ∧ s.decodeBound i n = s.raise .noInstance) := by
  unfold State.decodeBound
  cases (s.slot i).valid <;> simp

/-- What `SR_LOOKUP` can do (43_set_rate.md R91). -/
theorem State.srLookup_cases (s : State) (i : SlotId) :
    (findRate (s.slotTable i) s.latch.operandLo = none ∧ s.srLookup i = s.finishError .unsupportedRate) ∨
    ∃ n, findRate (s.slotTable i) s.latch.operandLo = some n ∧
      (((s.slot i).variant = .b ∧ (s.slot i).auxp = false ∧ s.srLookup i = s.raise .missingAux) ∨
       ((s.slot i).variant = .b ∧ (s.slot i).auxp = true ∧
          s.srLookup i = { s with idx := BitVec.ofNat 4 n, phase := .srPreMux }) ∨
       ((s.slot i).variant ≠ .b ∧ s.srLookup i = { s with idx := BitVec.ofNat 4 n, phase := .srPdOn })) := by
  unfold State.srLookup
  cases hf : findRate (s.slotTable i) s.latch.operandLo with
  | none => exact .inl ⟨rfl, rfl⟩
  | some n =>
    refine .inr ⟨n, rfl, ?_⟩
    by_cases hv : (s.slot i).variant = .b <;> cases ha : (s.slot i).auxp <;> simp [hv]

/-- What `RC_COMPUTE` can do (44_recalc_rate.md R125). -/
theorem State.rcCompute_cases (s : State) :
    (modeValid s.rbDacpd s.rbDsmpd = false ∧ s.rcCompute = s.finishError .invalidPllMode) ∨
    (modeValid s.rbDacpd s.rbDsmpd = true ∧
      ((s.rbPrediv = 0 ∧ s.rcCompute = s.raise .zeroPrediv) ∨
       (s.rbPrediv ≠ 0 ∧ 2 ^ 64 ≤ recalcNum s.ref.toNat s.rbFbdiv.toNat s.fracc ∧
          s.rcCompute = s.raise .arithOverflow) ∨
       (s.rbPrediv ≠ 0 ∧ recalcNum s.ref.toNat s.rbFbdiv.toNat s.fracc < 2 ^ 64 ∧
          ∃ rate, rate = BitVec.ofNat 64
              (recalc s.ref.toNat s.rbFbdiv.toNat s.fracc s.rbPrediv.toNat s.rbPostdiv.toNat) ∧
            s.rcCompute = s.finish .ok (lowWord rate) (highWord rate) 0 false))) := by
  unfold State.rcCompute
  cases hm : modeValid s.rbDacpd s.rbDsmpd with
  | false => exact .inl ⟨rfl, rfl⟩
  | true =>
    refine .inr ⟨rfl, ?_⟩
    by_cases hp : s.rbPrediv = 0
    · exact .inl ⟨hp, by simp [hp]⟩
    by_cases ho : 2 ^ 64 ≤ recalcNum s.ref.toNat s.rbFbdiv.toNat s.fracc
    · refine .inr (.inl ⟨hp, ho, ?_⟩)
      simp only [Bool.not_true, Bool.false_eq_true, if_false, hp, ho, if_true]
    · refine .inr (.inr ⟨hp, by omega, _, rfl, ?_⟩)
      simp only [Bool.not_true, Bool.false_eq_true, if_false, hp, ho]

/-- What the `EXEC` step of `CREATE` can do (45_instance_create.md R131). -/
theorem createEffect_cases (i : SlotId) (var : BitVec 2) (auxp : Bool) (s : State) :
    (Variant.ofBits var = none ∧ createEffect i var auxp s = s.finishError .invalidVariant) ∨
    ∃ v, Variant.ofBits var = some v ∧
      (((s.slot i).valid = true ∧ createEffect i var auxp s = s.raise .recreate) ∨
       ((s.slot i).valid = false ∧ s.addrOk v s.latch.operandLo auxp s.latch.operandHi = false ∧
          createEffect i var auxp s = s.raise .addressRange) ∨
       ((s.slot i).valid = false ∧ s.addrOk v s.latch.operandLo auxp s.latch.operandHi = true ∧
          s.aliases i v s.latch.operandLo auxp s.latch.operandHi = true ∧
          createEffect i var auxp s = s.raise .addressAlias) ∨
       ((s.slot i).valid = false ∧ s.addrOk v s.latch.operandLo auxp s.latch.operandHi = true ∧
          s.aliases i v s.latch.operandLo auxp s.latch.operandHi = false ∧
          createEffect i var auxp s =
            (s.bind i v s.latch.operandLo auxp s.latch.operandHi).finish .ok 0 0 0 false)) := by
  unfold createEffect
  cases hv : Variant.ofBits var with
  | none => exact .inl ⟨rfl, rfl⟩
  | some v =>
    refine .inr ⟨v, rfl, ?_⟩
    cases h1 : (s.slot i).valid <;> cases h2 : s.addrOk v s.latch.operandLo auxp s.latch.operandHi <;>
      cases h3 : s.aliases i v s.latch.operandLo auxp s.latch.operandHi <;> simp [h2, h3]

/-- What the `EXEC` step of `FIND_RATE` can do: it finishes (41_rate_lookup.md R75). -/
theorem findRateEffect_finishes (var : BitVec 2) (s : State) :
    ∃ c r0 fd, findRateEffect var s = s.finish c r0 0 0 fd := by
  unfold findRateEffect
  cases Variant.ofBits var with
  | none => exact ⟨_, _, _, rfl⟩
  | some v =>
    cases h : findRate (s.cfg.rateTable.get v) s.latch.operandLo <;> simp only [h] <;> exact ⟨_, _, _, rfl⟩

/-- What the `EXEC` step of a codec command can do: it finishes, `FOUND = 0` (42_field_codec.md R85 to R87). -/
theorem codecEffect_finishes {var : BitVec 2} {f : FieldId} {g : FieldLayout → State → State} (s : State)
    (hg : ∀ l, ∃ c r0 r1 r2, g l s = s.finish c r0 r1 r2 false) :
    ∃ c r0 r1 r2, codecEffect var f g s = s.finish c r0 r1 r2 false := by
  unfold codecEffect
  cases Variant.ofBits var with
  | none => exact ⟨_, _, _, _, rfl⟩
  | some v => exact hg _

theorem layoutEffect_finishes (l : FieldLayout) (s : State) :
    ∃ c r0 r1 r2, layoutEffect l s = s.finish c r0 r1 r2 false := ⟨_, _, _, _, rfl⟩

theorem extractEffect_finishes (l : FieldLayout) (s : State) :
    ∃ c r0 r1 r2, extractEffect l s = s.finish c r0 r1 r2 false := ⟨_, _, _, _, rfl⟩

theorem insertEffect_finishes (l : FieldLayout) (s : State) :
    ∃ c r0 r1 r2, insertEffect l s = s.finish c r0 r1 r2 false := by
  unfold insertEffect
  split
  · exact ⟨_, _, _, _, rfl⟩
  · exact ⟨_, _, _, _, rfl⟩

end Sys2Proof.Machine
end

