-- ==== Sys2Proof/Laws/Exec.lean ====
section
/-! SUPPORT. What a step of each command, and a step of the machine, can do: one inversion lemma per meaning and one per agent. -/

namespace Sys2Proof.Machine

/-- The six write steps of `SET_RATE`: the field, the phase it is written in, the next phase (43_set_rate.md R96 to R101). -/
def writeSteps : List (FieldId × Phase × Phase) :=
  [(.dacpd, .srWDacpd, .srWDsmpd), (.dsmpd, .srWDsmpd, .srWFrac), (.frac, .srWFrac, .srWPrediv),
   (.prediv, .srWPrediv, .srWFbdiv), (.fbdiv, .srWFbdiv, .srWPostdiv), (.postdiv, .srWPostdiv, .srPdOff)]

/-- The state a read-back step of field `f` makes its changes on: the read is in the trace. -/
def State.afterRead (s : State) (i : SlotId) (f : FieldId) : State := (s.memRead (s.fieldAddr i f)).2

@[simp] theorem State.fieldRead_fst (s : State) (i : SlotId) (f : FieldId) :
    (s.fieldRead (s.fieldAddr i f) (s.slotLayout i f)).1 = s.fieldVal i f := rfl

@[simp] theorem State.fieldRead_snd (s : State) (i : SlotId) (f : FieldId) :
    (s.fieldRead (s.fieldAddr i f) (s.slotLayout i f)).2 = s.afterRead i f := rfl

/-- What a recalc phase can do (44_recalc_rate.md R115 to R120, R125). -/
theorem State.recalcStep_eq_next {s t : State} {i : SlotId} (h : s.recalcStep i = .next t) :
    (s.phase = .rcRDacpd ∧ s.busOk (s.fieldAddr i .dacpd) = true ∧
      t = { s.afterRead i .dacpd with rbDacpd := (s.fieldVal i .dacpd).setWidth 1, phase := .rcRDsmpd }) ∨
    (s.phase = .rcRDsmpd ∧ s.busOk (s.fieldAddr i .dsmpd) = true ∧
      t = { s.afterRead i .dsmpd with rbDsmpd := (s.fieldVal i .dsmpd).setWidth 1, phase := .rcRPrediv }) ∨
    (s.phase = .rcRPrediv ∧ s.busOk (s.fieldAddr i .prediv) = true ∧
      t = { s.afterRead i .prediv with rbPrediv := s.fieldVal i .prediv, phase := .rcRFbdiv }) ∨
    (s.phase = .rcRFbdiv ∧ s.busOk (s.fieldAddr i .fbdiv) = true ∧
      t = { s.afterRead i .fbdiv with rbFbdiv := s.fieldVal i .fbdiv, phase := .rcRPostdiv }) ∨
    (s.phase = .rcRPostdiv ∧ s.busOk (s.fieldAddr i .postdiv) = true ∧
      t = { s.afterRead i .postdiv with rbPostdiv := s.fieldVal i .postdiv, phase := .rcRFrac }) ∨
    (s.phase = .rcRFrac ∧ s.busOk (s.fieldAddr i .frac) = true ∧
      t = { s.afterRead i .frac with rbFrac := s.fieldVal i .frac, phase := .rcCompute }) ∨
    (s.phase = .rcCompute ∧ t = s.rcCompute) := by
  unfold State.recalcStep at h
  cases hp : s.phase <;> simp only [hp, reduceCtorEq] at h
  · obtain ⟨ho, rfl⟩ := State.readBack_eq_next.1 h; exact .inl ⟨rfl, ho, rfl⟩
  · obtain ⟨ho, rfl⟩ := State.readBack_eq_next.1 h; exact .inr (.inl ⟨rfl, ho, rfl⟩)
  · obtain ⟨ho, rfl⟩ := State.readBack_eq_next.1 h; exact .inr (.inr (.inl ⟨rfl, ho, rfl⟩))
  · obtain ⟨ho, rfl⟩ := State.readBack_eq_next.1 h; exact .inr (.inr (.inr (.inl ⟨rfl, ho, rfl⟩)))
  · obtain ⟨ho, rfl⟩ := State.readBack_eq_next.1 h; exact .inr (.inr (.inr (.inr (.inl ⟨rfl, ho, rfl⟩))))
  · obtain ⟨ho, rfl⟩ := State.readBack_eq_next.1 h; exact .inr (.inr (.inr (.inr (.inr (.inl ⟨rfl, ho, rfl⟩)))))
  · exact .inr (.inr (.inr (.inr (.inr (.inr ⟨rfl, (Host.Outcome.next.inj h).symm⟩)))))

/-- What a step of `RECALC_RATE` can do (44_recalc_rate.md R113; 30_encoding.md R67). -/
theorem execRecalcRate_eq_next {s t : State} {slot : BitVec 2} {i : SlotId} (hs : SlotId.ofBits slot = some i)
    (h : execRecalcRate slot s = .next t) :
    (s.phase = .decode ∧ t = s.decodeBound i { s with ref := s.latch.operandLo, phase := .rcRDacpd }) ∨
    (s.phase ≠ .decode ∧ s.recalcStep i = .next t) := by
  simp only [execRecalcRate, hs] at h
  by_cases hp : s.phase = .decode
  · simp only [hp] at h
    exact .inl ⟨hp, (Host.Outcome.next.inj h).symm⟩
  · refine .inr ⟨hp, ?_⟩
    split at h
    · contradiction
    · exact h

/-- What a step of `SET_RATE` can do (43_set_rate.md R90 to R106; 30_encoding.md R67). -/
theorem execSetRate_eq_next {s t : State} {slot : BitVec 2} {i : SlotId} (hs : SlotId.ofBits slot = some i)
    (h : execSetRate slot s = .next t) :
    (s.phase = .decode ∧ t = s.decodeBound i { s with phase := .srLookup }) ∨
    (s.phase = .srLookup ∧ t = s.srLookup i) ∨
    (s.phase = .srPreMux ∧ s.busOk (s.muxAddr i) = true ∧
      t = { s.rmw (s.muxAddr i) s.cfg.auxMux s.cfg.selRefDiv2 with phase := .srPdOn }) ∨
    (s.phase = .srPdOn ∧ s.busOk (s.fieldAddr i .pd) = true ∧
      t = { s.rmw (s.fieldAddr i .pd) (s.slotLayout i .pd) 1 with phase := .srWDacpd }) ∨
    (∃ f e p, (f, s.phase, p) ∈ writeSteps ∧ s.entry i = some e ∧ s.busOk (s.fieldAddr i f) = true ∧
      t = { s.rmw (s.fieldAddr i f) (s.slotLayout i f) (entryValue e f) with phase := p }) ∨
    (s.phase = .srPdOff ∧ s.busOk (s.fieldAddr i .pd) = true ∧ (s.slot i).variant = .b ∧
      t = { s.rmw (s.fieldAddr i .pd) (s.slotLayout i .pd) 0 with t0 := s.nowUs, phase := .srDelay }) ∨
    (s.phase = .srPdOff ∧ s.busOk (s.fieldAddr i .pd) = true ∧ (s.slot i).variant ≠ .b ∧
      t = { s.rmw (s.fieldAddr i .pd) (s.slotLayout i .pd) 0 with
        ref := s.cfg.parentRate.get i, phase := .rcRDacpd }) ∨
    (s.phase = .srDelay ∧ s.settled = true ∧ t = { s with phase := .srPostMux }) ∨
    (s.phase = .srDelay ∧ s.settled = false ∧ t = s) ∨
    (s.phase = .srPostMux ∧ s.busOk (s.muxAddr i) = true ∧
      t = { s.rmw (s.muxAddr i) s.cfg.auxMux s.cfg.selPllDiv2 with
        ref := s.cfg.parentRate.get i, phase := .rcRDacpd }) ∨
    (13 ≤ s.phase.rank ∧ s.recalcStep i = .next t) := by
  simp only [execSetRate, hs] at h
  have w : ∀ {f p}, (f, s.phase, p) ∈ writeSteps → s.writeEntryField i f p = .next t →
      ∃ f e p, (f, s.phase, p) ∈ writeSteps ∧ s.entry i = some e ∧ s.busOk (s.fieldAddr i f) = true ∧
        t = { s.rmw (s.fieldAddr i f) (s.slotLayout i f) (entryValue e f) with phase := p } := by
    intro f p hm hw
    simp only [State.writeEntryField] at hw
    cases he : s.entry i with
    | none => simp only [he] at hw; cases hw
    | some e =>
      simp only [he, State.writeField, State.rmwTo] at hw
      obtain ⟨ho, rfl⟩ := State.onBus_eq_next.1 hw
      exact ⟨f, e, p, hm, rfl, ho, rfl⟩
  cases hp : s.phase <;> simp only [hp] at h
  case decode => exact .inl ⟨rfl, (Host.Outcome.next.inj h).symm⟩
  case srLookup => exact .inr (.inl ⟨rfl, (Host.Outcome.next.inj h).symm⟩)
  case srPreMux =>
    obtain ⟨ho, rfl⟩ := State.onBus_eq_next.1 h
    exact .inr (.inr (.inl ⟨rfl, ho, rfl⟩))
  case srPdOn =>
    obtain ⟨ho, rfl⟩ := State.onBus_eq_next.1 h
    exact .inr (.inr (.inr (.inl ⟨rfl, ho, rfl⟩)))
  case srPdOff =>
    simp only [State.srPdOff] at h
    obtain ⟨ho, ht⟩ := State.onBus_eq_next.1 h
    by_cases hv : (s.slot i).variant = .b
    · rw [if_pos hv] at ht
      exact .inr (.inr (.inr (.inr (.inr (.inl ⟨rfl, ho, hv, ht.symm⟩)))))
    · rw [if_neg hv] at ht
      exact .inr (.inr (.inr (.inr (.inr (.inr (.inl ⟨rfl, ho, hv, ht.symm⟩))))))
  case srDelay =>
    have ht := Host.Outcome.next.inj h
    unfold State.srDelay at ht
    cases hse : s.settled <;> simp only [hse, if_true, Bool.false_eq_true, if_false] at ht
    · exact .inr (.inr (.inr (.inr (.inr (.inr (.inr (.inr (.inl ⟨rfl, rfl, ht.symm⟩))))))))
    · exact .inr (.inr (.inr (.inr (.inr (.inr (.inr (.inl ⟨rfl, rfl, ht.symm⟩)))))))
  case srPostMux =>
    obtain ⟨ho, rfl⟩ := State.onBus_eq_next.1 h
    exact .inr (.inr (.inr (.inr (.inr (.inr (.inr (.inr (.inr (.inl ⟨rfl, ho, rfl⟩)))))))))
  case srWDacpd | srWDsmpd | srWFrac | srWPrediv | srWFbdiv | srWPostdiv =>
    rw [← hp]
    exact .inr (.inr (.inr (.inr (.inl (w (by rw [hp]; decide) h)))))
  all_goals
    first
    | exact .inr (.inr (.inr (.inr (.inr (.inr (.inr (.inr (.inr (.inr ⟨by decide, h⟩)))))))))
    | (simp only [State.recalcStep, hp, reduceCtorEq] at h)

/-- A command on a reserved slot only raises `ILLEGAL_COMMAND` (30_encoding.md R69). -/
theorem execSetRate_reserved {s : State} {slot : BitVec 2} (hs : SlotId.ofBits slot = none) :
    execSetRate slot s = s.illegal := by
  simp only [execSetRate, hs]

theorem execRecalcRate_reserved {s : State} {slot : BitVec 2} (hs : SlotId.ofBits slot = none) :
    execRecalcRate slot s = s.illegal := by
  simp only [execRecalcRate, hs]

/-- The codec commands finish in `EXEC`, go to `EXEC` in `DECODE`, or are illegal (42_field_codec.md R85 to R87). -/
def codecStep (s t : State) : Prop :=
  (s.phase = .decode ∧ t = { s with phase := .exec }) ∨
  (s.phase = .exec ∧ ∃ c r0 r1 r2 fd, t = s.finish c r0 r1 r2 fd) ∨
  (s.phase = .decode ∧ t = s.raise .illegalCommand)

theorem codecStep_of_effect {s t : State} {g : State → State} (h : s.decodeThenExec g = .next t)
    (hg : ∃ c r0 r1 r2 fd, g s = s.finish c r0 r1 r2 fd) : codecStep s t := by
  rcases State.decodeThenExec_eq_next.1 h with ⟨hp, rfl⟩ | ⟨hp, rfl⟩
  · exact .inl ⟨hp, rfl⟩
  · exact .inr (.inl ⟨hp, hg⟩)

theorem codecStep_of_illegal {s t : State} (h : s.illegal = .next t) : codecStep s t := by
  obtain ⟨hp, rfl⟩ := State.illegal_eq_next.1 h
  exact .inr (.inr ⟨hp, rfl⟩)

theorem execFindRate_eq_next {s t : State} {var : BitVec 2} (h : execFindRate var s = .next t) : codecStep s t :=
  codecStep_of_effect h (by obtain ⟨c, r0, fd, he⟩ := findRateEffect_finishes var s; exact ⟨c, r0, 0, 0, fd, he⟩)

theorem execFieldLayout_eq_next {s t : State} {var : BitVec 2} {fld : BitVec 3}
    (h : execFieldLayout var fld s = .next t) : codecStep s t := by
  unfold execFieldLayout at h
  split at h
  · exact codecStep_of_illegal h
  · exact codecStep_of_effect h (by
      obtain ⟨c, r0, r1, r2, he⟩ := codecEffect_finishes s (fun l => layoutEffect_finishes l s)
      exact ⟨c, r0, r1, r2, _, he⟩)

theorem execFieldExtract_eq_next {s t : State} {var : BitVec 2} {fld : BitVec 3}
    (h : execFieldExtract var fld s = .next t) : codecStep s t := by
  unfold execFieldExtract at h
  split at h
  · exact codecStep_of_illegal h
  · exact codecStep_of_effect h (by
      obtain ⟨c, r0, r1, r2, he⟩ := codecEffect_finishes s (fun l => extractEffect_finishes l s)
      exact ⟨c, r0, r1, r2, _, he⟩)

theorem execFieldInsert_eq_next {s t : State} {var : BitVec 2} {fld : BitVec 3}
    (h : execFieldInsert var fld s = .next t) : codecStep s t := by
  unfold execFieldInsert at h
  split at h
  · exact codecStep_of_illegal h
  · exact codecStep_of_effect h (by
      obtain ⟨c, r0, r1, r2, he⟩ := codecEffect_finishes s (fun l => insertEffect_finishes l s)
      exact ⟨c, r0, r1, r2, _, he⟩)

/-- What a step of `CREATE` can do (45_instance_create.md R131). -/
theorem execCreate_eq_next {s t : State} {slot var : BitVec 2} {auxp : Bool} (h : execCreate slot var auxp s = .next t) :
    (SlotId.ofBits slot = none ∧ s.phase = .decode ∧ t = s.raise .illegalCommand) ∨
    ∃ i, SlotId.ofBits slot = some i ∧
      ((s.phase = .decode ∧ t = { s with phase := .exec }) ∨
       (s.phase = .exec ∧ t = createEffect i var auxp s)) := by
  unfold execCreate at h
  split at h
  · next hs => obtain ⟨hp, rfl⟩ := State.illegal_eq_next.1 h; exact .inl ⟨hs, hp, rfl⟩
  · next i hs =>
    rcases State.decodeThenExec_eq_next.1 h with ⟨hp, rfl⟩ | ⟨hp, rfl⟩
    · exact .inr ⟨i, hs, .inl ⟨hp, rfl⟩⟩
    · exact .inr ⟨i, hs, .inr ⟨hp, rfl⟩⟩

/-- What a host write of the interface can do (10_state.md R19, R20; 30_encoding.md R66; 60_exceptions.md R144). -/
theorem State.ifaceWrite_cases (s : State) (off : Nat) (v : Word) :
    (off = 0 ∧ s.busy = false ∧ s.ifaceWrite off v = s.accept v) ∨
    (off = 0 ∧ s.busy = true ∧ s.ifaceWrite off v = s.raise .cmdWhileBusy) ∨
    (off ≠ 0 ∧ ∃ a0 a1 a2 a3, s.ifaceWrite off v = { s with arg0 := a0, arg1 := a1, arg2 := a2, arg3 := a3 }) := by
  by_cases h0 : off = 0
  · subst h0
    cases hb : s.busy
    · exact .inl ⟨rfl, rfl, by simp [State.ifaceWrite, State.writeCmd, hb]⟩
    · exact .inr (.inl ⟨rfl, rfl, by simp [State.ifaceWrite, State.writeCmd, hb]⟩)
  · refine .inr (.inr ⟨h0, ?_⟩)
    simp only [State.ifaceWrite, h0, if_false]
    repeat' split
    · exact ⟨v, s.arg1, s.arg2, s.arg3, rfl⟩
    · exact ⟨s.arg0, v, s.arg2, s.arg3, rfl⟩
    · exact ⟨s.arg0, s.arg1, v, s.arg3, rfl⟩
    · exact ⟨s.arg0, s.arg1, s.arg2, v, rfl⟩
    · exact ⟨s.arg0, s.arg1, s.arg2, s.arg3, rfl⟩

/-- The sequencer's turn: an illegal word raises in `DECODE`, a command takes its step (30_encoding.md R67). -/
theorem State.seqStep_eq_next {s t : State} (h : s.seqStep = .next t) :
    ((∃ e, decode s.latch.word = .error e) ∧ s.phase = .decode ∧ t = s.raise .illegalCommand) ∨
    ∃ i, decode s.latch.word = .ok i ∧ exec i s = .next t := by
  unfold State.seqStep at h
  cases hd : decode s.latch.word with
  | error e =>
    simp only [hd] at h
    obtain ⟨hp, rfl⟩ := State.illegal_eq_next.1 h
    exact .inl ⟨⟨e, rfl⟩, hp, rfl⟩
  | ok i => simp only [hd] at h; exact .inr ⟨i, rfl, h⟩

/-- What a step nobody asks for can do (notes/assumptions/2.md). -/
theorem State.autoStep_eq_next {s t : State} (h : s.autoStep = .next t) :
    (s.seqEnabled = true ∧ s.seqStep = .next t) ∨
    (s.seqEnabled = false ∧ ∃ d, 1 ≤ d ∧ s.nowUs.toNat + d < 2 ^ 64 ∧
      t = { s.advance d with draws := s.draws + 1 }) := by
  unfold State.autoStep at h
  cases he : s.seqEnabled <;> simp only [he, if_true, Bool.false_eq_true, if_false] at h
  · exact .inr ⟨rfl, State.timePasses_eq_next h⟩
  · exact .inl ⟨rfl, h⟩

/-- What the other agents' turn during a `WAIT` can do (notes/assumptions/17.md). -/
theorem State.othersStep_eq_next {s t : State} (h : s.othersStep = .next t) :
    (s.seqEnabled = true ∧ s.seqStep = .next t) ∨
    (s.seqEnabled = false ∧ ∃ d, 1 ≤ d ∧ s.nowUs.toNat + d < 2 ^ 64 ∧
      t = { s.advance d with draws := s.draws + 1 }) ∨
    (s.seqEnabled = false ∧ t = s) := by
  unfold State.othersStep at h
  cases he : s.seqEnabled <;> simp only [he, if_true, Bool.false_eq_true, if_false] at h
  · split at h
    · exact .inr (.inl ⟨rfl, State.timePasses_eq_next h⟩)
    · exact .inr (.inr ⟨rfl, (Host.Outcome.next.inj h).symm⟩)
  · exact .inl ⟨rfl, h⟩

/-- The other agents' turn during a `WAIT` stops only where the sequencer's step does: the end of time is no stop of it. -/
theorem State.othersStep_eq_fault {s : State} {r : Fault} (h : s.othersStep = .fault r) :
    s.seqEnabled = true ∧ s.seqStep = .fault r := by
  unfold State.othersStep at h
  cases he : s.seqEnabled <;> simp only [he, if_true, Bool.false_eq_true, if_false] at h
  · split at h
    · next hc =>
      simp only [State.canAdvance, Bool.and_eq_true, decide_eq_true_eq] at hc
      obtain ⟨d, _, _, hn⟩ := State.timePasses_next hc.2
      rw [hn] at h
      cases h
    · cases h
  · exact ⟨rfl, h⟩

/-- THE STEP OF THE MACHINE, agent by agent: what it can do if it answers a next state. -/
theorem step_cases {s t : State} (h : step s = .next t) :
    (s.cfgChecked = false ∧ Config.wf s.cfg = true ∧ t = { s with cfgChecked := true }) ∨
    (s.cfgChecked = true ∧ s.schedule = [] ∧ s.autoStep = .next t) ∨
    (s.cfgChecked = true ∧ ∃ m ms, s.schedule = m :: ms ∧ State.runMove { s with schedule := ms } m = .next t) := by
  unfold step State.machineStep at h
  by_cases hc : s.cfgChecked = true
  · rw [if_pos hc] at h
    unfold State.agentStep at h
    cases hm : s.schedule with
    | nil => simp only [hm] at h; exact .inr (.inl ⟨hc, rfl, h⟩)
    | cons m ms => simp only [hm] at h; exact .inr (.inr ⟨hc, m, ms, rfl, h⟩)
  · rw [if_neg hc] at h
    unfold State.checkConfig at h
    split at h
    · next hw => exact .inl ⟨by simpa using hc, hw, (Host.Outcome.next.inj h).symm⟩
    · cases h

/-- With nothing asked for, the step is the one nobody asks for. -/
theorem step_alone {s : State} (h : s.alone) : step s = s.autoStep := by
  obtain ⟨hc, hs⟩ := h
  simp only [step, State.machineStep, State.agentStep, hc, hs, if_true]

/-- A scheduled move is taken off the schedule and made. -/
theorem step_move {s : State} {m : Move} {ms : List Move} (hc : s.cfgChecked = true) (hs : s.schedule = m :: ms) :
    step s = State.runMove { s with schedule := ms } m := by
  simp only [step, State.machineStep, State.agentStep, hc, hs, if_true]

/-- While the host waits, it reads `STATUS`, and then the other agents have their turn (30_encoding.md R71). -/
theorem step_wait_busy {s : State} {ms : List Move} (hc : s.cfgChecked = true) (hs : s.schedule = .wait :: ms)
    (hb : s.busy = true) : step s = .next { s with hostData := s.statusWord, schedule := .others :: .wait :: ms } := by
  rw [step_move hc hs]
  unfold State.runMove State.movePoll
  simp only
  rw [if_pos hb]
  rfl

/-- The read of `STATUS` that finds `BUSY = 0` ends the `WAIT` (30_encoding.md R71). -/
theorem step_wait_idle {s : State} {ms : List Move} (hc : s.cfgChecked = true) (hs : s.schedule = .wait :: ms)
    (hb : s.busy = false) : step s = .next { s with hostData := s.statusWord, schedule := ms } := by
  rw [step_move hc hs]
  unfold State.runMove State.movePoll
  simp only
  rw [if_neg (by simp [hb])]
  rfl

/-- A sequencer that has a step takes it when nothing else is asked for. -/
theorem State.autoStep_of_enabled {s : State} {i : Instr} (he : s.seqEnabled = true)
    (hd : decode s.latch.word = .ok i) : s.autoStep = exec i s := by
  unfold State.autoStep State.seqStep
  rw [if_pos he, hd]

/-- `k + 1` steps are one step and then `k`. -/
theorem run_succ {s t : State} {k : Nat} (h : step s = .next t) :
    Host.Core.run Sys2Proof.core (k + 1) s = Host.Core.run Sys2Proof.core k t := by
  have h' : Sys2Proof.core.step s = .next t := h
  simp only [Host.Core.run, h']

theorem run_zero (s : State) : Host.Core.run Sys2Proof.core 0 s = .next s := rfl

/-- `j + k` steps are `j` steps and then `k`. -/
theorem run_add {j k : Nat} : ∀ {s t : State}, Host.Core.run Sys2Proof.core j s = .next t →
    Host.Core.run Sys2Proof.core (j + k) s = Host.Core.run Sys2Proof.core k t := by
  induction j with
  | zero =>
    intro s t h
    cases Host.Outcome.next.inj h
    rw [Nat.zero_add]
  | succ j ih =>
    intro s t h
    rw [Nat.add_right_comm]
    cases hs : step s with
    | next u => rw [run_succ hs] at h ⊢; exact ih h
    | fault r =>
      have h' : Sys2Proof.core.step s = .fault r := hs
      simp only [Host.Core.run, h', reduceCtorEq] at h
    | refused r =>
      have h' : Sys2Proof.core.step s = .refused r := hs
      simp only [Host.Core.run, h', reduceCtorEq] at h

/-- What a scheduled move can do, `u` being the state with the move taken off the schedule. -/
theorem runMove_cases {u t : State} {m : Move} (h : u.runMove m = .next t) :
    (m = .sequencer ∧ ((u.seqEnabled = true ∧ u.seqStep = .next t) ∨ (u.seqEnabled = false ∧ t = u))) ∨
    (∃ off v, m = .hostWrite off v ∧ ifaceOk off = true ∧ t = u.ifaceWrite off v) ∨
    (∃ off, m = .hostRead off ∧ ifaceOk off = true ∧ t = { u with hostData := u.ifaceRead off }) ∨
    (∃ a v, m = .busWrite a v ∧ u.mayBusWrite a = true ∧ t = u.hostBusWrite a v) ∨
    (m = .wait ∧ t = u.movePoll) ∨
    (m = .others ∧ u.othersStep = .next t) ∨
    (∃ d, m = .tick d ∧ u.canAdvance d = true ∧ t = u.advance d) ∨
    (m = .reset ∧ t = u.resetBlock) := by
  cases m with
  | sequencer =>
    simp only [State.runMove] at h
    cases he : u.seqEnabled <;> simp only [he, if_true, Bool.false_eq_true, if_false] at h
    · exact .inl ⟨rfl, .inr ⟨rfl, (Host.Outcome.next.inj h).symm⟩⟩
    · exact .inl ⟨rfl, .inl ⟨rfl, h⟩⟩
  | hostWrite off v =>
    simp only [State.runMove, State.moveHostWrite] at h
    split at h
    · next ho => exact .inr (.inl ⟨off, v, rfl, ho, (Host.Outcome.next.inj h).symm⟩)
    · cases h
  | hostRead off =>
    simp only [State.runMove, State.moveHostRead] at h
    split at h
    · next ho => exact .inr (.inr (.inl ⟨off, rfl, ho, (Host.Outcome.next.inj h).symm⟩))
    · cases h
  | busWrite a v =>
    simp only [State.runMove, State.moveBusWrite] at h
    split at h
    · next ho => exact .inr (.inr (.inr (.inl ⟨a, v, rfl, ho, (Host.Outcome.next.inj h).symm⟩)))
    · cases h
  | wait => exact .inr (.inr (.inr (.inr (.inl ⟨rfl, (Host.Outcome.next.inj h).symm⟩))))
  | others => exact .inr (.inr (.inr (.inr (.inr (.inl ⟨rfl, h⟩)))))
  | tick d =>
    simp only [State.runMove, State.moveTick] at h
    split at h
    · next ho => exact .inr (.inr (.inr (.inr (.inr (.inr (.inl ⟨d, rfl, ho, (Host.Outcome.next.inj h).symm⟩))))))
    · cases h
  | reset => exact .inr (.inr (.inr (.inr (.inr (.inr (.inr ⟨rfl, (Host.Outcome.next.inj h).symm⟩))))))

end Sys2Proof.Machine
end

