-- ==== Sys2Proof/Laws/PerInstr.lean ====
section
/-! SUPPORT. What holds of every command as syntax, one lemma per constructor of `Instr`. -/

namespace Sys2Proof.Laws

/-- The word of a well-formed command is matched by exactly one row of the match and mask table, the row of its mnemonic
(30_encoding.md R61, R63). -/
def EncodeMatchesRow.Statement (i : Instr) : Prop :=
  i.wf = true → (opcodeRows.filter fun r => r.matchesWord (encode i)).map OpcodeRow.mnemonic = [i.mnemonic]

theorem EncodeMatchesRow.create (slot var : BitVec 2) (auxp : Bool) :
    EncodeMatchesRow.Statement (.create slot var auxp) := by
  unfold EncodeMatchesRow.Statement; revert slot var auxp; decide

theorem EncodeMatchesRow.findRate (var : BitVec 2) : EncodeMatchesRow.Statement (.findRate var) := by
  unfold EncodeMatchesRow.Statement; revert var; decide

theorem EncodeMatchesRow.fieldLayout (var : BitVec 2) (fld : BitVec 3) :
    EncodeMatchesRow.Statement (.fieldLayout var fld) := by
  unfold EncodeMatchesRow.Statement; revert var fld; decide

theorem EncodeMatchesRow.fieldExtract (var : BitVec 2) (fld : BitVec 3) :
    EncodeMatchesRow.Statement (.fieldExtract var fld) := by
  unfold EncodeMatchesRow.Statement; revert var fld; decide

theorem EncodeMatchesRow.fieldInsert (var : BitVec 2) (fld : BitVec 3) :
    EncodeMatchesRow.Statement (.fieldInsert var fld) := by
  unfold EncodeMatchesRow.Statement; revert var fld; decide

theorem EncodeMatchesRow.setRate (slot : BitVec 2) : EncodeMatchesRow.Statement (.setRate slot) := by
  unfold EncodeMatchesRow.Statement; revert slot; decide

theorem EncodeMatchesRow.recalcRate (slot : BitVec 2) : EncodeMatchesRow.Statement (.recalcRate slot) := by
  unfold EncodeMatchesRow.Statement; revert slot; decide

end Sys2Proof.Laws
end

