-- ==== Sys2Proof/Tests/Slice0.lean ====
section
/-! SUPPORT. Tests: the words of 30_encoding.md R63 and 95_test_vectors.md section 3.1 decode as the spec says; single steps give
the values of the vectors of 95_test_vectors.md; and for every statement with hypotheses a concrete state and operands that meet
them all together (`witness_…`). The configuration is the fixture of 95_test_vectors.md section 2, which is not the hardware's. -/

namespace Sys2Proof.Tests

open Sys2Proof.Machine

/-! ## The fixture and small states -/

def entryOf (hz : DWord) (prediv fbdiv postdiv1 : Word) (useFraction : Bool) (frac : BitVec 24) : RateEntry :=
  { target := hz, prediv := prediv, fbdiv := fbdiv, postdiv1 := postdiv1, useFraction := useFraction, frac := frac }

/-- 95_test_vectors.md section 2. -/
def fixture : Config :=
  { layout :=
      { a := ⟨⟨0, 0, 1⟩, ⟨0, 1, 1⟩, ⟨0, 2, 1⟩, ⟨8, 0, 24⟩, ⟨4, 0, 12⟩, ⟨0, 8, 6⟩, ⟨0, 4, 2⟩⟩
        b := ⟨⟨0, 16, 1⟩, ⟨0, 17, 1⟩, ⟨0, 18, 1⟩, ⟨8, 0, 24⟩, ⟨4, 16, 12⟩, ⟨0, 24, 6⟩, ⟨0, 20, 2⟩⟩
        c := ⟨⟨0, 31, 1⟩, ⟨0, 30, 1⟩, ⟨0, 29, 1⟩, ⟨4, 8, 24⟩, ⟨8, 0, 12⟩, ⟨0, 2, 6⟩, ⟨0, 0, 2⟩⟩ }
    auxMux := ⟨0, 24, 2⟩, selRefDiv2 := 0, selPllDiv2 := 1
    rateTable :=
      { a := [entryOf 1250000000 12 625 1 false 0, entryOf 1500000000 2 125 1 false 0,
              entryOf 375000000 2 125 4 false 0]
        b := [entryOf 1200000000 2 100 1 false 0, entryOf 800000000 3 100 1 false 0]
        c := [entryOf 1188000000 2 99 1 false 0, entryOf 1212000000 1 50 1 true 0x800000] }
    tableRefHz := ⟨24000000, 24000000, 24000000⟩
    parentRate := ⟨24000000, 24000000, 24000000⟩
    addrW := 32, busEndian := .little }

/-- Just out of reset with the fixture, all bus bytes 0, the parameters checked. -/
def fresh : State := { State.resetWith fixture 1000 { cells := [], fill := .const 0 } with cfgChecked := true }

/-- The bindings of 95_test_vectors.md section 2. -/
def bound : State :=
  { fresh with slots :=
      { s0 := { valid := true, variant := .a, base := 0x10000000, auxp := false, aux := 0 }
        s1 := { valid := true, variant := .b, base := 0x10000100, auxp := true, aux := 0x10000800 }
        s2 := { valid := true, variant := .c, base := 0x10000200, auxp := false, aux := 0 } } }

/-- `s` with command `i` accepted on two 64-bit operands and come to phase `p`. -/
def running (s : State) (i : Instr) (p : Phase) (lo hi : DWord) : State :=
  { s with
    latch := { s.latchOf (encode i) with arg0 := lowWord lo, arg1 := highWord lo, arg2 := lowWord hi, arg3 := highWord hi }
    busy := true, phase := p }

/-- `s` with word `v` in the register at `a`. -/
def poke (s : State) (a : Nat) (v : Word) : State := { s with bus := s.bus.writeWord s.cfg.busEndian a v }

/-- `s` with the moves `ms` asked for. -/
def asking (s : State) (ms : List Move) : State := { s with schedule := ms }

/-- `s` after a fault with code 5. -/
def halted (s : State) : State := { s with fcode := 5, faulted := true, busy := true, phase := .halted }

theorem inv_of {s : State}
    (h : (s.bus.wf && s.latchOk && s.controlOk && s.codesOk && s.slotsOk && s.phaseOk && s.cfgOk) = true) : s.Inv := by
  simp only [Bool.and_eq_true] at h
  obtain ⟨⟨⟨⟨⟨⟨h1, h2⟩, h3⟩, h4⟩, h5⟩, h6⟩, h7⟩ := h
  exact ⟨h1, h2, h3, h4, h5, h6, h7⟩

/-- The state of an outcome, `s` where there is none. -/
def after (s : State) : Result → State
  | .next t    => t
  | .fault _   => s
  | .refused _ => s

/-- The outcome is a next state, and it is `t`. -/
def goesTo (r : Result) (t : State) : Bool :=
  match r with
  | .next u    => u == t
  | .fault _   => false
  | .refused _ => false

theorem next_of {r : Result} {t : State} (h : goesTo r t = true) : r = .next t := by
  cases r <;> simp_all [goesTo]

/-- What the host sees of a state: `STATUS`, `FAULT`, `RES0`..`RES2`. -/
def view (s : State) : List Word := [s.statusWord, s.faultWord, s.res0, s.res1, s.res2]

/-! ## Well-formed commands -/

theorem test_wf_create_slot : (Instr.create 3 0 false).wf = false ∧ (Instr.create 2 3 true).wf = true := by decide
theorem test_wf_fieldLayout_fld : (Instr.fieldLayout 0 7).wf = false ∧ (Instr.fieldLayout 3 6).wf = true := by decide
theorem test_wf_fieldExtract_fld : (Instr.fieldExtract 0 7).wf = false ∧ (Instr.fieldExtract 3 6).wf = true := by decide
theorem test_wf_fieldInsert_fld : (Instr.fieldInsert 0 7).wf = false ∧ (Instr.fieldInsert 3 6).wf = true := by decide
theorem test_wf_setRate_slot : (Instr.setRate 3).wf = false ∧ (Instr.setRate 2).wf = true := by decide
theorem test_wf_recalcRate_slot : (Instr.recalcRate 3).wf = false ∧ (Instr.recalcRate 2).wf = true := by decide
theorem test_wf_findRate : (Instr.findRate 3).wf = true := by decide

/-- The fixture is well formed; a table with a target that does not round-trip, and a field beyond its register, are not. -/
theorem test_config_wf : Config.wf fixture = true := by decide
theorem test_config_wf_table : Config.wf { fixture with tableRefHz := ⟨24000001, 24000000, 24000000⟩ } = false := by
  decide
theorem test_config_wf_mux : Config.wf { fixture with auxMux := ⟨0, 31, 2⟩ } = false := by decide

/-! ## Decoding: the patterns of 30_encoding.md R63, bit 31 first, and the words of 95_test_vectors.md section 3.1 -/

/-- `00000000000000000000A000VVSS0001` with `A = 1`, `VV = 01`, `SS = 01` (V2), and with `VV = 11` (V4). -/
theorem test_decode_create :
    decode 0b00000000000000000000100001010001 = .ok (.create 1 1 true) ∧ decode 0xC1 = .ok (.create 0 3 false) := by decide
/-- `000000000000000000000000VV000010` with `VV = 10` (V13). -/
theorem test_decode_findRate : decode 0b00000000000000000000000010000010 = .ok (.findRate 2) := by decide
/-- `000000000000000000000FFFVV000011` with `FFF = 100`, `VV = 00` (V14). -/
theorem test_decode_fieldLayout : decode 0b00000000000000000000010000000011 = .ok (.fieldLayout 0 4) := by decide
/-- `000000000000000000000FFFVV000100` with `FFF = 110`, `VV = 01`. -/
theorem test_decode_fieldExtract : decode 0b00000000000000000000011001000100 = .ok (.fieldExtract 1 6) := by decide
/-- `000000000000000000000FFFVV000101` with `FFF = 011`, `VV = 10`. -/
theorem test_decode_fieldInsert : decode 0b00000000000000000000001110000101 = .ok (.fieldInsert 2 3) := by decide
/-- `00000000000000000000000000SS0110` with `SS = 10` (V15). -/
theorem test_decode_setRate : decode 0b00000000000000000000000000100110 = .ok (.setRate 2) := by decide
/-- `00000000000000000000000000SS0111` with `SS = 10` (V16). -/
theorem test_decode_recalcRate : decode 0b00000000000000000000000000100111 = .ok (.recalcRate 2) := by decide
/-- V5 to V12. -/
theorem test_decode_illegal : ∀ w ∈ [0x31, 0x101, 0x0, 0x8, 0x1006, 0x46, 0x806, 0x703],
    decodeTableWord 32 w = none := by decide
/-- The first step of a word placed in the reset state, whatever the parameters, is the `DECODE` step of its command. -/
theorem test_placed_word_runs (s : State) (h : s.schedule = []) :
    step (s.withFetchWord 32 0x00000082) = exec (.findRate 2) (s.withFetchWord 32 0x00000082) := by
  simp [step, State.machineStep, State.agentStep, State.withFetchWord, State.withCommand, h, State.accept, State.autoStep,
    State.seqEnabled, State.seqStep, State.latchOf, show decode (BitVec.ofNat 32 130) = .ok (.findRate 2) by decide]

/-- In the reset state itself, whose parameters are open, the words of V1, V13, V14 and two more come to `EXEC`; V15 faults. -/
theorem test_first_step_after_reset : (∀ w ∈ [0x1, 0x82, 0x403, 0x404, 0x405],
    (after State.reset (step (State.reset.withFetchWord 32 w))).phase = .exec) ∧
    (after State.reset (step (State.reset.withFetchWord 32 0x26))).faultWord = 0x80000022 := by decide

/-! ## Single steps: the vectors of 95_test_vectors.md -/

/-- V17, and V19c: the slot is bound; a second register set that meets the first is refused. -/
theorem test_create_binds : ((after fresh (exec (.create 0 0 false)
      (running fresh (.create 0 0 false) .exec 0x10000000 0))).slot .s0) =
    { valid := true, variant := .a, base := 0x10000000, auxp := false, aux := 0 } := by decide
theorem test_create_aliases : view (after fresh (exec (.create 1 0 false) (running
      { fresh with slots := bound.slots.set .s1 Slot.unbound } (.create 1 0 false) .exec 0x10000004 0))) =
    [0x1, 0x80000019, 0, 0, 0] := by decide
/-- V21, V24. -/
theorem test_findRate_found : view (after fresh (exec (.findRate 0) (running fresh (.findRate 0) .exec 375000000 0))) =
    [0x2, 0, 2, 0, 0] := by decide
theorem test_findRate_all_bits : view (after fresh (exec (.findRate 0)
      (running fresh (.findRate 0) .exec 0x14A817C80 0))) = [0, 0, 0, 0, 0] := by decide
/-- V31, V33. -/
theorem test_fieldLayout_b : view (after fresh (exec (.fieldLayout 1 5) (running fresh (.fieldLayout 1 5) .exec 0 0))) =
    [0, 0, 0x0, 0x3F000000, 24] := by decide
theorem test_fieldLayout_c : view (after fresh (exec (.fieldLayout 2 0) (running fresh (.fieldLayout 2 0) .exec 0 0))) =
    [0, 0, 0x0, 0x80000000, 31] := by decide
/-- V34, V36. -/
theorem test_fieldExtract_a : view (after fresh (exec (.fieldExtract 0 5)
      (running fresh (.fieldExtract 0 5) .exec 0xC06 0))) = [0, 0, 12, 0, 0] := by decide
theorem test_fieldExtract_b : view (after fresh (exec (.fieldExtract 1 6)
      (running fresh (.fieldExtract 1 6) .exec 0xFFCFFFFF 0))) = [0, 0, 0, 0, 0] := by decide
/-- V38, V39a: raw word in `ARG0`, value in `ARG1`. -/
theorem test_fieldInsert_c : view (after fresh (exec (.fieldInsert 2 3)
      (running fresh (.fieldInsert 2 3) .exec (join64 0x800000 0xFF) 0))) = [0, 0, 0x800000FF, 0, 0] := by decide
theorem test_fieldInsert_range : view (after fresh (exec (.fieldInsert 0 3)
      (running fresh (.fieldInsert 0 3) .exec (join64 0x1000000 0) 0))) = [0x40, 0, 0, 0, 0] := by decide
/-- P3 line 3, the `PREDIV` write: 0xE0000004 becomes 0xE0000008 at 0x10000200. -/
theorem test_setRate_write : (after bound (exec (.setRate 2) (running (poke bound 0x10000200 0xE0000004) (.setRate 2)
      .srWPrediv 1188000000 0))).trace = [.rd 0x10000200 0xE0000004, .wr 0x10000200 0xE0000008] := by decide
/-- V15: `NO_INSTANCE` on an unbound slot 2. -/
theorem test_setRate_unbound : view (after fresh (exec (.setRate 2) (running fresh (.setRate 2) .decode 0 0))) =
    [0x1, 0x80000022, 0, 0, 0] := by decide

/-- Slot 0's registers read back, for the compute step. -/
def readBack (s : State) (ref : DWord) (mode : BitVec 1) (prediv fbdiv postdiv frac : Word) : State :=
  { running s (.recalcRate 0) .rcCompute ref 0 with
    ref := ref, rbDacpd := mode, rbDsmpd := mode, rbPrediv := prediv, rbFbdiv := fbdiv, rbPostdiv := postdiv, rbFrac := frac }

/-- V57, V60: the largest reference without overflow, and a result above `2^32` in fractional mode. -/
theorem test_recalcRate_large : view (after bound (exec (.recalcRate 0) (readBack bound 1759218604 1 12 625 0 0))) =
    [0, 0, 0x5555553E, 0x15, 0] := by decide
theorem test_recalcRate_fraction : view (after bound (exec (.recalcRate 0)
      (readBack bound 24000000 0 1 4095 0 0xFFFFFF))) = [0, 0, 0xE35FFFFE, 0x16, 0] := by decide
/-- V63: `CMD` written while slot 1's command waits. -/
theorem test_cmd_while_busy : view (after bound (step (asking (running bound (.setRate 1) .srDelay 800000000 0)
      [.hostWrite 0x00 0x2]))) = [0x1, 0x80000016, 0, 0, 0] := by decide

/-- 30_encoding.md R71: a read of a waiting host finds `BUSY = 1`; at the end of time, the block halted, it reads on. -/
theorem test_wait_reads_status : (after fresh (step (asking (running bound (.setRate 1) .srDelay 800000000 0)
      [.wait]))).hostData = 0x1 := by decide
theorem test_wait_never_stops : goesTo
      (step { asking (halted (running bound (.setRate 1) .decode 0 0)) [.others, .wait] with nowUs := 0xFFFFFFFFFFFFFFFF })
      { asking (halted (running bound (.setRate 1) .decode 0 0)) [.wait] with nowUs := 0xFFFFFFFFFFFFFFFF } = true := by
  decide

/-! ## Witnesses: encoding, steps, acceptance, faults, reset -/

theorem witness_DecodeOfEncodeGivesTheCommand : ∀ i ∈ [Instr.create 2 3 true, .findRate 3, .fieldLayout 3 6,
    .fieldExtract 0 0, .fieldInsert 3 6, .setRate 2, .recalcRate 0], i.wf = true := by decide
theorem witness_DecodedWordEncodesBack : decode 0x00000FFF = .error .reservedOpcode ∧
    decode 0x000008E1 = .ok (.create 2 3 true) := by decide
theorem witness_WordIsACommandWhenARowMatches : decode 0x00000027 = .ok (.recalcRate 2) ∧
    ∃ r ∈ opcodeRows, r.matchesWord 0x00000027 = true := by decide

/-- A command that runs, and its word. -/
def decoding : State := running bound (.setRate 2) .decode 1188000000 0

theorem witness_StepRunsTheLatchedCommand : decoding.cfgChecked = true ∧ decoding.seqEnabled = true ∧
    decode decoding.latch.word = .ok (.setRate 2) ∧ decoding.schedule = [] := by decide
theorem witness_StepRunsTheLatchedCommand_turn : ∀ m ∈ [Move.sequencer, .others], let s := asking decoding [m]
    s.cfgChecked = true ∧ s.seqEnabled = true ∧ decode s.latch.word = .ok (.setRate 2) ∧ s.schedule = m :: [] := by
  decide
theorem witness_StepRunsTheLatchedCommand_wait : let s := asking decoding [.wait]
    s.cfgChecked = true ∧ s.seqEnabled = true ∧ decode s.latch.word = .ok (.setRate 2) ∧ s.schedule = .wait :: [] ∧
      s.busy = true := by decide
theorem witness_PlacedWordRunsNext : State.reset.schedule = [] ∧ 0x00000851 < 2 ^ 32 ∧
    decode (BitVec.ofNat 32 0x00000851) = .ok (.create 1 1 true) := ⟨rfl, by decide, by decide⟩
theorem witness_IllegalWordRaisesInDecode : ∀ ms ∈ [[], [Move.sequencer], [.others], [.wait]],
    let s := asking { decoding with latch := { decoding.latch with word := 0x1006 } } ms
    s.cfgChecked = true ∧ s.phase = .decode ∧ decode s.latch.word = .error .reservedBits ∧ s.schedule = ms ∧
      s.busy = true := by decide
theorem witness_DecodeStepDispatches : decoding.phase = .decode ∧ (Instr.fieldInsert 3 6).wf = true ∧
    (∀ slot, Instr.fieldInsert 3 6 ≠ .setRate slot ∧ Instr.fieldInsert 3 6 ≠ .recalcRate slot) := by decide
theorem witness_DecodeStepDispatches_bound : decoding.phase = .decode ∧ SlotId.ofBits 2 = some .s2 ∧
    (decoding.slot .s2).valid = true := by decide
theorem witness_DecodeStepDispatches_unbound : let s := running fresh (.setRate 0) .decode 0 0
    s.phase = .decode ∧ SlotId.ofBits 0 = some .s0 ∧ (s.slot .s0).valid = false := by decide
theorem witness_CommandWriteIsAccepted : let s := asking fresh [.hostWrite 0x00 0x27]
    s.cfgChecked = true ∧ s.schedule = .hostWrite 0x00 0x27 :: [] ∧ s.busy = false := by decide
theorem witness_CommandWriteIsAccepted_busy : let s := asking decoding [.hostWrite 0x00 0x27]
    s.cfgChecked = true ∧ s.schedule = .hostWrite 0x00 0x27 :: [] ∧ s.busy = true ∧ s.faulted = false := by decide
theorem witness_CommandWriteWhileBusyFaults : let s := asking decoding [.hostWrite 0x00 0x27]
    s.cfgChecked = true ∧ s.schedule = .hostWrite 0x00 0x27 :: [] ∧ s.busy = true := by decide
theorem witness_HaltedUntilReset : let s := asking (halted decoding) [.hostWrite 0x00 0]
    (s.phase = .halted ∧ s.busy = true ∧ s.faulted = true ∧ s.cfgChecked = true ∧
      s.schedule.head? ≠ some .reset) ∧ step s = .next (halted decoding) :=
  ⟨by decide, next_of (by decide)⟩
theorem witness_HaltedUntilReset_moves :
    ∀ m ∈ [Move.hostRead 0x00, .hostRead 0x3C, .hostWrite 0x04 7, .hostWrite 0x08 7, .hostWrite 0x0C 7, .hostWrite 0x10 7],
      let s := asking (halted decoding) [m]
      s.phase = .halted ∧ s.busy = true ∧ s.faulted = true ∧ s.cfgChecked = true ∧ s.schedule = m :: [] := by decide
theorem witness_FirstFaultIsKept : let s := asking (halted decoding) [.hostWrite 0x00 0]
    (s.faulted = true ∧ s.schedule.head? ≠ some .reset) ∧ step s = .next (halted decoding) :=
  ⟨by decide, next_of (by decide)⟩
theorem witness_ResetRestoresTheBlock : let s := asking (halted decoding) [.reset, .wait]
    s.cfgChecked = true ∧ s.schedule = .reset :: [.wait] := by decide
/-- The fixture meets the conditions of the spec. -/
theorem fixture_layoutRules : Config.LayoutRules fixture where
  oneBit v f hf := by revert f; cases v <;> decide
  fracWidth v := by cases v <;> rfl
  numberWidth v f hf := by revert f; cases v <;> decide
  inside v f := by cases v <;> cases f <;> decide
  offset v f := by cases v <;> cases f <;> decide
  muxOffset := by decide
  apart v f g hfg ho j := by
    cases v <;> cases f <;> cases g <;>
      first
      | exact absurd rfl hfg
      | exact absurd ho (by decide)
      | (show ¬ ((_ ≤ j ∧ j < _) ∧ (_ ≤ j ∧ j < _)); simp [fixture, PerVariant.get, VariantLayout.get]; omega)
  mux := by decide
theorem fixture_entryRules (v : Variant) : ∀ e ∈ fixture.rateTable.get v, Config.EntryRules fixture v e := by
  have k : ∀ e, (∃ k ∈ [0, 2], e.postdiv1.toNat = 2 ^ k ∧ k < 2 ^ ((fixture.layout.get v).get .postdiv).width ∧
      recalcNum (fixture.tableRefHz.get v).toNat e.fbdiv.toNat (if e.useFraction then e.frac.toNat else 0) < 2 ^ 64 ∧
      recalcNum (fixture.tableRefHz.get v).toNat e.fbdiv.toNat (if e.useFraction then e.frac.toNat else 0) /
        (e.prediv.toNat * 2 ^ (24 + k)) = e.target.toNat) ∧
      (1 ≤ e.prediv.toNat ∧ e.prediv.toNat < 2 ^ ((fixture.layout.get v).get .prediv).width) ∧
      e.fbdiv.toNat < 2 ^ ((fixture.layout.get v).get .fbdiv).width ∧ (e.useFraction = false → e.frac = 0) →
      Config.EntryRules fixture v e := fun e ⟨⟨k, _, h⟩, h1, h2, h3⟩ => ⟨h1, h2, h3, k, h⟩
  intro e he
  refine k e ?_
  revert e
  cases v <;> decide
theorem fixture_tableRules : Config.TableRules fixture where
  length v := by cases v <;> decide
  distinct v m n d e hm hn h := by
    have hm' := (List.getElem?_eq_some_iff.1 hm).1
    have hn' := (List.getElem?_eq_some_iff.1 hn).1
    cases v
    all_goals
      simp only [fixture, PerVariant.get, List.length_cons, List.length_nil] at hm' hn' hm hn
      interval_cases m <;> interval_cases n <;>
        first
        | rfl
        | (cases hm; cases hn; exact absurd h (by decide))
  entries := fixture_entryRules
theorem fixture_knownMembers : Config.HasKnownMembers fixture :=
  ⟨⟨_, List.mem_cons_self, by decide⟩, ⟨_, List.mem_cons_self, by decide⟩⟩
theorem witness_FirstStepChecksTheParameters : let s := State.resetWith fixture 0 { cells := [], fill := .const 0 }
    s.cfgChecked = false ∧ Config.LayoutRules s.cfg ∧ Config.TableRules s.cfg ∧ Config.HasKnownMembers s.cfg :=
  ⟨rfl, fixture_layoutRules, fixture_tableRules, fixture_knownMembers⟩
/-- Equal select values; a table that does not round-trip; a table without the known member. -/
theorem witness_FirstStepChecksTheParameters_refused :
    ∀ c ∈ [{ fixture with selPllDiv2 := 0 }, { fixture with tableRefHz := ⟨24000000, 24000001, 24000000⟩ },
      { fixture with rateTable := { fixture.rateTable with c := fixture.rateTable.b } }],
      let s := State.resetWith c 0 { cells := [], fill := .const 0 }
      s.cfgChecked = false ∧
        ¬ (Config.LayoutRules s.cfg ∧ Config.TableRules s.cfg ∧ Config.HasKnownMembers s.cfg) := by
  intro c hc
  refine ⟨rfl, fun h => ?_⟩
  simp only [List.mem_cons, List.not_mem_nil, or_false] at hc
  rcases hc with rfl | rfl | rfl
  · exact absurd h.1.mux.2.2.1 (by decide)
  · obtain ⟨k, hk, -, -, hr⟩ := (h.2.1.entries .b (entryOf 1200000000 2 100 1 false 0) List.mem_cons_self).roundTrip
    obtain rfl : k = 0 := Nat.pow_right_injective (le_refl 2) (hk.symm.trans (by decide : _ = 2 ^ 0))
    exact absurd hr (by decide)
  · exact absurd h.2.2.c (by decide)

/-! ## Witnesses: the commands without bus access -/

/-- A `CREATE` of slot 1 with the other two slots bound, at its `EXEC` step. -/
def creating (base aux : DWord) : State :=
  running { bound with slots := bound.slots.set .s1 Slot.unbound } (.create 1 1 true) .exec base aux

theorem witness_CreateFollowsItsChecks_variant : SlotId.ofBits 1 = some .s1 ∧ (creating 0 0).phase = .exec ∧
    (3 : BitVec 2) = 3 := by decide
theorem witness_CreateFollowsItsChecks_recreate : let s := running bound (.create 0 0 false) .exec 0x10000000 0
    SlotId.ofBits 0 = some .s0 ∧ s.phase = .exec ∧ Variant.ofBits 0 = some .a ∧ (s.slot .s0).valid = true := by
  decide
/-- The register at offset 8 of a block at `2^32 - 8` is the first address beyond the bus (V19a). -/
theorem witness_CreateFollowsItsChecks_range : let s := creating 0xFFFFFFF8 0x10000800
    (SlotId.ofBits 1 = some .s1 ∧ s.phase = .exec ∧ Variant.ofBits 1 = some .b ∧ (s.slot .s1).valid = false) ∧
      ¬ s.addressesFit .b (s.latch.arg1 ++ s.latch.arg0) true (s.latch.arg3 ++ s.latch.arg2) := by
  refine ⟨by decide, fun h => ?_⟩
  exact absurd (h.2.1 .frac) (by decide)
theorem fits (base aux : DWord) (h : (creating base aux).addrOk .b base true aux = true) :
    (creating base aux).addressesFit .b base true aux := by
  simp only [State.addrOk, FieldId.all, List.all_cons, List.all_nil, Bool.and_true, Bool.not_true, Bool.false_or,
    Bool.and_eq_true, beq_iff_eq, decide_eq_true_eq] at h
  obtain ⟨⟨h0, h1⟩, h2⟩ := h
  exact ⟨h0, fun f => by cases f <;> simp_all, fun _ => h2⟩
/-- The last register of the block is the first of slot 2's (V19c). -/
theorem witness_CreateFollowsItsChecks_alias : let s := creating 0x100001F8 0x10000800
    (SlotId.ofBits 1 = some .s1 ∧ s.phase = .exec ∧ Variant.ofBits 1 = some .b ∧ (s.slot .s1).valid = false) ∧
      s.addressesFit .b 0x100001F8 true 0x10000800 ∧
      s.addressesCollide .s1 .b 0x100001F8 true 0x10000800 :=
  ⟨by decide, fits _ _ (by decide),
    .inr ⟨.s2, by decide, by decide, .inr (.inl ⟨.frac, .pd, by decide⟩)⟩⟩
/-- Four bytes lower it collides with nothing. -/
theorem witness_CreateFollowsItsChecks_ok : let s := creating 0x100001F4 0x10000800
    (SlotId.ofBits 1 = some .s1 ∧ s.phase = .exec ∧ Variant.ofBits 1 = some .b ∧ (s.slot .s1).valid = false) ∧
      s.addressesFit .b 0x100001F4 true 0x10000800 ∧
      ¬ s.addressesCollide .s1 .b 0x100001F4 true 0x10000800 := by
  refine ⟨by decide, fits _ _ (by decide), ?_⟩
  rintro (⟨-, f, h⟩ | ⟨j, hj, hv, h⟩)
  · revert h; cases f <;> decide
  · rcases h with h | ⟨f, g, h⟩ | ⟨ha, f, h⟩ | ⟨-, g, h⟩
    · revert h; cases j <;> decide
    · revert h; cases j <;> cases f <;> cases g <;> first | (exact absurd rfl hj) | decide
    · revert ha; cases j <;> first | (exact absurd rfl hj) | decide
    · revert h; cases j <;> cases g <;> first | (exact absurd rfl hj) | decide

theorem witness_FindRateGivesTheIndex : let s := running fresh (.findRate 0) .exec 375000000 0
    Variant.ofBits 0 = some .a ∧ s.phase = .exec ∧ Config.wf s.cfg = true ∧
      (s.cfg.rateTable.get .a)[2]? = some (entryOf 375000000 2 125 4 false 0) ∧
      (375000000 : DWord) = (s.latch.arg1 ++ s.latch.arg0 : DWord) := by decide
theorem witness_FindRateMissesAbsentTargets : let s := running fresh (.findRate 2) .exec 1188000001 0
    Variant.ofBits 2 = some .c ∧ s.phase = .exec ∧
      ∀ e ∈ s.cfg.rateTable.get .c, e.target ≠ (s.latch.arg1 ++ s.latch.arg0 : DWord) := by decide
theorem witness_LookupsRefuseAVariantOutsideTheSet :
    (running fresh (.fieldInsert 3 6) .exec 0 0).phase = .exec ∧ (6 : BitVec 3) ≠ 7 ∧ (0 : BitVec 3) ≠ 7 := by decide
theorem witness_FieldLayoutReportsTheLayout : Variant.ofBits 2 = some .c ∧ FieldId.ofBits 6 = some .postdiv ∧
    (running fresh (.fieldLayout 2 6) .exec 0 0).phase = .exec := by decide
theorem witness_FieldExtractGivesTheFieldsNumber : let s := running fresh (.fieldExtract 2 3) .exec 0xFFFFFFFF 0
    Variant.ofBits 2 = some .c ∧ FieldId.ofBits 3 = some .frac ∧ s.phase = .exec ∧
      ((s.cfg.layout.get .c).get .frac).shift + ((s.cfg.layout.get .c).get .frac).width ≤ 32 := by decide
theorem witness_FieldInsertReplacesTheFieldOnly : let s := running fresh (.fieldInsert 1 5) .exec (join64 63 0xFFFFFFFF) 0
    Variant.ofBits 1 = some .b ∧ FieldId.ofBits 5 = some .prediv ∧ s.phase = .exec ∧
      s.latch.arg1.toNat < 2 ^ ((s.cfg.layout.get .b).get .prediv).width := by decide
theorem witness_FieldInsertReplacesTheFieldOnly_range : let s := running fresh (.fieldInsert 1 5) .exec (join64 64 0) 0
    Variant.ofBits 1 = some .b ∧ FieldId.ofBits 5 = some .prediv ∧ s.phase = .exec ∧
      2 ^ ((s.cfg.layout.get .b).get .prediv).width ≤ s.latch.arg1.toNat := by decide
theorem witness_InsertThenExtractReturnsTheValue : (8 + 24 ≤ 32) ∧ (0xFFFFFF : Word).toNat < 2 ^ 24 := by decide
theorem witness_LookupCommandsLeaveTheRest : ∀ c ∈ [Instr.create 1 1 true, .findRate 3, .fieldLayout 0 0, .fieldExtract 2 6,
    .fieldInsert 1 3], (∀ slot, c ≠ .setRate slot ∧ c ≠ .recalcRate slot) ∧
      exec c (creating 0x10000100 0x10000800) = .next (after fresh (exec c (creating 0x10000100 0x10000800))) := fun c hc =>
  ⟨by revert c; decide, next_of (by revert c; decide)⟩

/-! ## Witnesses: SET_RATE -/

/-- A `SET_RATE` at phase `p`, its entry at index `n`. -/
def setting (slot : BitVec 2) (hz : DWord) (n : BitVec 4) (p : Phase) : State :=
  { running bound (.setRate slot) p hz 0 with idx := n }

theorem witness_LookupPhaseChoosesTheWay_absent : let s := setting 0 1250000001 0 .srLookup
    SlotId.ofBits 0 = some .s0 ∧ s.phase = .srLookup ∧ Config.wf s.cfg = true ∧
      ∀ e ∈ s.cfg.rateTable.get (s.slot .s0).variant, e.target ≠ (s.latch.arg1 ++ s.latch.arg0 : DWord) := by decide
theorem witness_LookupPhaseChoosesTheWay_found : let s := setting 0 375000000 0 .srLookup
    SlotId.ofBits 0 = some .s0 ∧ s.phase = .srLookup ∧ Config.wf s.cfg = true ∧
      (s.cfg.rateTable.get (s.slot .s0).variant)[2]? = some (entryOf 375000000 2 125 4 false 0) ∧
      (375000000 : DWord) = (s.latch.arg1 ++ s.latch.arg0 : DWord) ∧ (s.slot .s0).variant ≠ .b := by decide
theorem witness_LookupPhaseChoosesTheWay_mux : let s := setting 1 800000000 0 .srLookup
    SlotId.ofBits 1 = some .s1 ∧ s.phase = .srLookup ∧ Config.wf s.cfg = true ∧
      (s.cfg.rateTable.get (s.slot .s1).variant)[1]? = some (entryOf 800000000 3 100 1 false 0) ∧
      (800000000 : DWord) = (s.latch.arg1 ++ s.latch.arg0 : DWord) ∧ (s.slot .s1).variant = .b ∧
      (s.slot .s1).auxp = true := by decide
theorem witness_LookupPhaseChoosesTheWay_missing :
    let s := { setting 1 800000000 0 .srLookup with
      slots := bound.slots.set .s1 { valid := true, variant := .b, base := 0x10000100, auxp := false, aux := 0 } }
    SlotId.ofBits 1 = some .s1 ∧ s.phase = .srLookup ∧ Config.wf s.cfg = true ∧
      (s.cfg.rateTable.get (s.slot .s1).variant)[1]? = some (entryOf 800000000 3 100 1 false 0) ∧
      (800000000 : DWord) = (s.latch.arg1 ++ s.latch.arg0 : DWord) ∧ (s.slot .s1).variant = .b ∧
      (s.slot .s1).auxp = false := by decide
theorem witness_WriteStepsProgramTheEntry : SlotId.ofBits 2 = some .s2 ∧
    ∀ w ∈ [(FieldId.dacpd, Phase.srWDacpd), (.dsmpd, .srWDsmpd), (.frac, .srWFrac), (.prediv, .srWPrediv), (.fbdiv, .srWFbdiv),
      (.postdiv, .srWPostdiv)], let s := setting 2 1212000000 1 w.2
      (s.cfg.rateTable.get (s.slot .s2).variant)[s.idx.toNat]? = some (entryOf 1212000000 1 50 1 true 0x800000) ∧
        (1 : Word).toNat = 2 ^ 0 ∧ s.phase = w.2 ∧ s.fieldAddr .s2 w.1 % 4 = 0 ∧ s.fieldAddr .s2 w.1 < 2 ^ s.cfg.addrW := by
  decide
theorem witness_PowerDownBracketsTheWrites :
    ∀ x ∈ [(0, SlotId.s0, Phase.srPdOn), (0, .s0, .srPdOff), (1, .s1, .srPdOff)], let s := setting x.1 0 0 x.2.2
      SlotId.ofBits x.1 = some x.2.1 ∧ s.fieldAddr x.2.1 .pd % 4 = 0 ∧ s.fieldAddr x.2.1 .pd < 2 ^ s.cfg.addrW ∧
        s.phase = x.2.2 ∧ ((s.slot x.2.1).variant = .b ↔ x.1 = 1) := by decide
theorem witness_MuxStepsHandTheBusClockOver : ∀ p ∈ [Phase.srPreMux, .srPostMux], let s := setting 1 0 0 p
    SlotId.ofBits 1 = some .s1 ∧ s.muxAddr .s1 % 4 = 0 ∧ s.muxAddr .s1 < 2 ^ s.cfg.addrW ∧ s.phase = p := by decide

/-- Slot 1's `SET_RATE` in its settling wait since time `t0`, now being 1000. -/
def waiting (t0 : DWord) : State := { setting 1 800000000 1 .srDelay with t0 := t0 }

theorem witness_SettlingWaitIsALowerBound : let s := waiting 900
    SlotId.ofBits 1 = some .s1 ∧ s.phase = .srDelay ∧ decode s.latch.word = .ok (.setRate 1) ∧ s.alone ∧
      s.t0.toNat + 100 ≤ s.nowUs.toNat := ⟨rfl, rfl, by decide, ⟨rfl, rfl⟩, by decide⟩
theorem witness_SettlingWaitIsALowerBound_early : let s := waiting 901
    SlotId.ofBits 1 = some .s1 ∧ s.phase = .srDelay ∧ decode s.latch.word = .ok (.setRate 1) ∧ s.alone ∧
      s.nowUs.toNat < s.t0.toNat + 100 ∧ s.nowUs.toNat + 1 < 2 ^ 64 :=
  ⟨rfl, rfl, by decide, ⟨rfl, rfl⟩, by decide, by decide⟩
theorem witness_SetRateLeavesTheRest : SlotId.ofBits 1 = some .s1 ∧
    ∀ p ∈ [Phase.srPostMux, .srPdOff, .srLookup], let s := setting 1 800000000 1 p
      exec (.setRate 1) s = .next (after s (exec (.setRate 1) s)) ∧ (s.storeAddr .s1 = none ↔ p = .srLookup) :=
  ⟨rfl, fun p hp => ⟨next_of (by revert p; decide), by revert p; decide⟩⟩

/-! ## Witnesses: RECALC_RATE and the datapath -/

theorem witness_ReadBackStepsReadTheFields : SlotId.ofBits 2 = some .s2 ∧
    ∀ w ∈ [(FieldId.dacpd, Phase.rcRDacpd), (.dsmpd, .rcRDsmpd), (.prediv, .rcRPrediv), (.fbdiv, .rcRFbdiv),
      (.postdiv, .rcRPostdiv), (.frac, .rcRFrac)], let s := running bound (.recalcRate 2) w.2 24000000 0
      s.phase = w.2 ∧ s.fieldAddr .s2 w.1 % 4 = 0 ∧ s.fieldAddr .s2 w.1 < 2 ^ s.cfg.addrW := by decide
theorem witness_ComputeStepGivesTheTruncatedRational_mode :
    let s := { readBack bound 24000000 1 12 625 0 0 with rbDsmpd := 0 }
    SlotId.ofBits 0 = some .s0 ∧ s.phase = .rcCompute ∧ s.rbDacpd ≠ s.rbDsmpd := by decide
theorem witness_ComputeStepGivesTheTruncatedRational_prediv : let s := readBack bound 24000000 0 0 625 0 0
    SlotId.ofBits 0 = some .s0 ∧ s.phase = .rcCompute ∧ s.rbDacpd = s.rbDsmpd ∧ s.rbPrediv = 0 := by decide
/-- V58, V57: the first reference that overflows, and the last that does not. -/
theorem witness_ComputeStepGivesTheTruncatedRational_overflow : let s := readBack bound 1759218605 1 12 625 0 0
    SlotId.ofBits 0 = some .s0 ∧ s.phase = .rcCompute ∧ s.rbDacpd = s.rbDsmpd ∧ s.rbPrediv ≠ 0 ∧
      2 ^ 64 ≤ s.ref.toNat * (s.rbFbdiv.toNat * 2 ^ 24 + if s.rbDacpd = 0 then s.rbFrac.toNat else 0) := by decide
theorem witness_ComputeStepGivesTheTruncatedRational_ok : let s := readBack bound 1759218604 1 12 625 0 0
    SlotId.ofBits 0 = some .s0 ∧ s.phase = .rcCompute ∧ s.rbDacpd = s.rbDsmpd ∧ s.rbPrediv ≠ 0 ∧
      s.ref.toNat * (s.rbFbdiv.toNat * 2 ^ 24 + if s.rbDacpd = 0 then s.rbFrac.toNat else 0) < 2 ^ 64 := by decide
theorem witness_RecalcVanishesAtItsCorners : 1 ≤ 1 ∧ recalcNum (2 ^ 40 - 1) 1 0 < 2 ^ 64 ∧ 40 ≤ 40 ∧
    recalcNum 0 1 0 < 2 ^ 64 ∧ recalcNum (2 ^ 64 - 1) 0 0 < 2 ^ 64 := by decide
theorem witness_RecalcLeavesTheRest : let s := readBack bound 24000000 1 12 625 0 0
    exec (.recalcRate 0) s = .next (after s (exec (.recalcRate 0) s)) := next_of (by decide)

/-! ## Witnesses: whole commands -/

/-- Slot 0 holds integer mode, pre-divider 12, feedback divider 625 (E1), and a `RECALC_RATE` of it was accepted. -/
def recalcing (w0 : Word) (ref : DWord) : State :=
  running (poke (poke bound 0x10000000 w0) 0x10000004 625) (.recalcRate 0) .decode ref 0

theorem witness_RecalcRunGivesTheRegistersFrequency : let s := recalcing 0xC06 1759218604
    s.Inv ∧ (s.alone ∧ s.phase = .decode ∧ decode s.latch.word = .ok (.recalcRate 0) ∧ SlotId.ofBits 0 = some .s0 ∧
      (s.slot .s0).valid = true) ∧
    s.fieldVal .s0 .dacpd = s.fieldVal .s0 .dsmpd ∧ s.fieldVal .s0 .prediv ≠ 0 ∧
      (s.latch.arg1 ++ s.latch.arg0 : DWord).toNat * ((s.fieldVal .s0 .fbdiv).toNat * 2 ^ 24 +
        (if s.fieldVal .s0 .dacpd = 0 then (s.fieldVal .s0 .frac).toNat else 0)) < 2 ^ 64 :=
  ⟨inv_of (by decide), ⟨⟨rfl, rfl⟩, by decide⟩, by decide⟩
/-- Mixed mode bits (V53). -/
theorem witness_RecalcRunReportsBadRegisters_mode : let s := recalcing 0xC02 24000000
    s.Inv ∧ (s.alone ∧ s.phase = .decode ∧ decode s.latch.word = .ok (.recalcRate 0) ∧ SlotId.ofBits 0 = some .s0 ∧
      (s.slot .s0).valid = true) ∧ s.fieldVal .s0 .dacpd ≠ s.fieldVal .s0 .dsmpd :=
  ⟨inv_of (by decide), ⟨⟨rfl, rfl⟩, by decide⟩, by decide⟩
/-- A zero pre-divider (V55). -/
theorem witness_RecalcRunReportsBadRegisters_prediv : let s := recalcing 0x6 24000000
    s.Inv ∧ (s.alone ∧ s.phase = .decode ∧ decode s.latch.word = .ok (.recalcRate 0) ∧ SlotId.ofBits 0 = some .s0 ∧
      (s.slot .s0).valid = true) ∧ s.fieldVal .s0 .dacpd = s.fieldVal .s0 .dsmpd ∧ s.fieldVal .s0 .prediv = 0 :=
  ⟨inv_of (by decide), ⟨⟨rfl, rfl⟩, by decide⟩, by decide⟩
/-- The first reference that overflows (V58). -/
theorem witness_RecalcRunReportsBadRegisters_overflow : let s := recalcing 0xC06 1759218605
    s.Inv ∧ (s.alone ∧ s.phase = .decode ∧ decode s.latch.word = .ok (.recalcRate 0) ∧ SlotId.ofBits 0 = some .s0 ∧
      (s.slot .s0).valid = true) ∧ s.fieldVal .s0 .dacpd = s.fieldVal .s0 .dsmpd ∧ s.fieldVal .s0 .prediv ≠ 0 ∧
      2 ^ 64 ≤ (s.latch.arg1 ++ s.latch.arg0 : DWord).toNat * ((s.fieldVal .s0 .fbdiv).toNat * 2 ^ 24 +
        (if s.fieldVal .s0 .dacpd = 0 then (s.fieldVal .s0 .frac).toNat else 0)) :=
  ⟨inv_of (by decide), ⟨⟨rfl, rfl⟩, by decide⟩, by decide⟩
theorem witness_IntegerModeIgnoresTheFraction : let s := recalcing 0xC06 1759218604
    s.Inv ∧ (s.alone ∧ s.phase = .decode ∧ decode s.latch.word = .ok (.recalcRate 0) ∧ SlotId.ofBits 0 = some .s0 ∧
      (s.slot .s0).valid = true) ∧ s.fieldVal .s0 .dacpd = 1 ∧ s.fieldVal .s0 .dsmpd = 1 :=
  ⟨inv_of (by decide), ⟨⟨rfl, rfl⟩, by decide⟩, by decide⟩
theorem witness_AbsentRateTouchesNoRegister : let s := setting 0 1250000001 0 .decode
    s.alone ∧ s.phase = .decode ∧ decode s.latch.word = .ok (.setRate 0) ∧ SlotId.ofBits 0 = some .s0 ∧
      (s.slot .s0).valid = true ∧
      ∀ e ∈ s.cfg.rateTable.get (s.slot .s0).variant, e.target ≠ (s.latch.arg1 ++ s.latch.arg0 : DWord) :=
  ⟨⟨rfl, rfl⟩, by decide⟩
theorem witness_SetRateRunProgramsVariantsAAndC : let s := setting 2 1212000000 0 .decode
    s.Inv ∧ s.alone ∧ s.phase = .decode ∧ decode s.latch.word = .ok (.setRate 2) ∧ SlotId.ofBits 2 = some .s2 ∧
      (s.slot .s2).valid = true ∧ (s.slot .s2).variant ≠ .b ∧
      (s.cfg.rateTable.get (s.slot .s2).variant)[1]? = some (entryOf 1212000000 1 50 1 true 0x800000) ∧
      (1212000000 : DWord) = (s.latch.arg1 ++ s.latch.arg0 : DWord) ∧
      (s.cfg.parentRate.get .s2).toNat * (50 * 2 ^ 24 + 0x800000) < 2 ^ 64 :=
  ⟨inv_of (by decide), ⟨rfl, rfl⟩, by decide⟩
theorem witness_SetRateRunHandsVariantBOver : let s := setting 1 800000000 0 .decode
    s.Inv ∧ s.alone ∧ s.phase = .decode ∧ decode s.latch.word = .ok (.setRate 1) ∧ SlotId.ofBits 1 = some .s1 ∧
      (s.slot .s1).valid = true ∧ (s.slot .s1).variant = .b ∧ (s.slot .s1).auxp = true ∧
      (s.cfg.rateTable.get .b)[1]? = some (entryOf 800000000 3 100 1 false 0) ∧
      (800000000 : DWord) = (s.latch.arg1 ++ s.latch.arg0 : DWord) ∧ s.nowUs.toNat + 100 < 2 ^ 64 ∧
      (s.cfg.parentRate.get .s1).toNat * (100 * 2 ^ 24) < 2 ^ 64 :=
  ⟨inv_of (by decide), ⟨rfl, rfl⟩, by decide⟩
theorem witness_SetRateReturnsTheRateAskedFor : let s := setting 0 375000000 0 .decode
    s.Inv ∧ s.alone ∧ s.phase = .decode ∧ decode s.latch.word = .ok (.setRate 0) ∧ SlotId.ofBits 0 = some .s0 ∧
      (s.slot .s0).valid = true ∧ (s.slot .s0).variant ≠ .b ∧
      (s.cfg.rateTable.get (s.slot .s0).variant)[2]? = some (entryOf 375000000 2 125 4 false 0) ∧
      (375000000 : DWord) = (s.latch.arg1 ++ s.latch.arg0 : DWord) ∧
      s.cfg.parentRate.get .s0 = s.cfg.tableRefHz.get (s.slot .s0).variant :=
  ⟨inv_of (by decide), ⟨rfl, rfl⟩, by decide⟩
theorem witness_SetRateReturnsTheRateAskedFor_b : let s := setting 1 800000000 0 .decode
    s.Inv ∧ s.alone ∧ s.phase = .decode ∧ decode s.latch.word = .ok (.setRate 1) ∧ SlotId.ofBits 1 = some .s1 ∧
      (s.slot .s1).valid = true ∧ (s.slot .s1).variant = .b ∧ (s.slot .s1).auxp = true ∧
      (s.cfg.rateTable.get (s.slot .s1).variant)[1]? = some (entryOf 800000000 3 100 1 false 0) ∧
      (800000000 : DWord) = (s.latch.arg1 ++ s.latch.arg0 : DWord) ∧
      s.cfg.parentRate.get .s1 = s.cfg.tableRefHz.get (s.slot .s1).variant ∧ s.nowUs.toNat + 100 < 2 ^ 64 :=
  ⟨inv_of (by decide), ⟨rfl, rfl⟩, by decide⟩
theorem witness_SettlingWaitEnds : let s := waiting 1000
    s.alone ∧ s.phase = .srDelay ∧ decode s.latch.word = .ok (.setRate 1) ∧ SlotId.ofBits 1 = some .s1 ∧
      s.t0.toNat + 100 < 2 ^ 64 ∧ s.t0.toNat ≤ s.nowUs.toNat := ⟨⟨rfl, rfl⟩, by decide⟩

/-- Slot 0's `SET_RATE` of 1 250 000 000 Hz at its compute step: registers and working registers as it left them (V40). -/
def computing (ref : DWord) : State :=
  { poke (poke (setting 0 1250000000 0 .rcCompute) 0x10000000 0xC06) 0x10000004 0x271 with
    cfg := { fixture with parentRate := ⟨ref, ref, ref⟩ }
    ref := ref, rbDacpd := 1, rbDsmpd := 1, rbPrediv := 12, rbFbdiv := 625 }

/-- The first parent rate that overflows with this entry, and the last that does not (V58, V57). -/
theorem witness_SetRateNeverReportsABadMode : let s := computing 1759218604
    s.Inv ∧ s.progressOk = true ∧ s.phase = .rcCompute ∧ decode s.latch.word = .ok (.setRate 0) ∧
      SlotId.ofBits 0 = some .s0 ∧ s.entry .s0 = some (entryOf 1250000000 12 625 1 false 0) ∧
      (s.cfg.parentRate.get .s0).toNat * (625 * 2 ^ 24 + 0) < 2 ^ 64 :=
  ⟨inv_of (by decide), by decide⟩
theorem witness_SetRateNeverReportsABadMode_overflow : let s := computing 1759218605
    s.Inv ∧ s.progressOk = true ∧ s.phase = .rcCompute ∧ decode s.latch.word = .ok (.setRate 0) ∧
      SlotId.ofBits 0 = some .s0 ∧ s.entry .s0 = some (entryOf 1250000000 12 625 1 false 0) ∧
      2 ^ 64 ≤ (s.cfg.parentRate.get .s0).toNat * (625 * 2 ^ 24 + 0) :=
  ⟨inv_of (by decide), by decide⟩
theorem witness_FindRateLineRuns : fresh.Inv ∧ fresh.alone ∧ fresh.phase = .idle ∧ Variant.ofBits 2 = some .c ∧
    (fresh.cfg.rateTable.get .c)[1]? = some (entryOf 1212000000 1 50 1 true 0x800000) :=
  ⟨inv_of (by decide), ⟨rfl, rfl⟩, by decide⟩

theorem witness_LinesExpandToTheirAccesses : fresh.alone ∧ fresh.busy = false ∧ (2 : BitVec 2) ≠ 3 ∧ (6 : BitVec 3) ≠ 7 :=
  ⟨⟨rfl, rfl⟩, rfl, by decide, by decide⟩
/-- A waiting host, not busy and busy; then the others' turn in `HALTED`, with time left and at the end of its count. -/
theorem witness_LinesExpandToTheirAccesses_wait :
    (asking fresh [.wait]).cfgChecked = true ∧ (asking fresh [.wait]).schedule = .wait :: [] ∧ fresh.busy = false ∧
      (asking decoding [.wait]).cfgChecked = true ∧ (asking decoding [.wait]).schedule = .wait :: [] ∧
      decoding.busy = true := by decide
theorem witness_LinesExpandToTheirAccesses_others (now : DWord) :
    let s := { asking (halted decoding) [.others, .wait] with nowUs := now }
    s.cfgChecked = true ∧ s.schedule = .others :: [.wait] ∧ s.seqEnabled = false ∧
      (now = 0xFFFFFFFFFFFFFFFE → s.nowUs.toNat + 1 < 2 ^ 64) ∧ (now = 0xFFFFFFFFFFFFFFFF → s.nowUs.toNat + 1 = 2 ^ 64) :=
  ⟨rfl, rfl, rfl, fun h => by subst h; decide, fun h => by subst h; rfl⟩

/-! ## Witnesses: invariants of every step -/

/-- Slot 0's `SET_RATE`, powered down and about to write its pre-divider. -/
def programming : State := poke (setting 0 1250000000 0 .srWPrediv) 0x10000000 0x7

theorem programming_inv : programming.Inv := inv_of (by decide)
theorem programming_steps : step programming = .next (after fresh (step programming)) := next_of (by decide)

theorem witness_StepKeepsTheBusCanonical : programming.bus.wf = true ∧
    step programming = .next (after fresh (step programming)) := ⟨programming_inv.bus, programming_steps⟩
theorem witness_StepKeepsTheInvariant : programming.Inv ∧ step programming = .next (after fresh (step programming)) :=
  ⟨programming_inv, programming_steps⟩
theorem witness_StepKeepsTheProgressOfSetRate : programming.Inv ∧ programming.progressOk = true ∧
    step programming = .next (after fresh (step programming)) := ⟨programming_inv, by decide, programming_steps⟩
theorem witness_InvariantExcludesModelFaults : let s := { fresh with nowUs := 0xFFFFFFFFFFFFFFFF }
    s.Inv ∧ step s = .fault .timeExhausted := ⟨inv_of (by decide), rfl⟩
theorem witness_DividersMoveOnlyUnderPowerDown : let s := programming
    s.Inv ∧ s.progressOk = true ∧ step s = .next (after fresh (step s)) ∧ (s.slot .s0).valid = true ∧
      FieldId.prediv ≠ .pd ∧ extractField ((after fresh (step s)).busAt (s.fieldAddr .s0 .prediv))
        (fieldMask (s.slotLayout .s0 .prediv)) (s.slotLayout .s0 .prediv).shift ≠ s.fieldVal .s0 .prediv :=
  ⟨programming_inv, by decide, programming_steps, by decide⟩
theorem witness_OnlyItsOwnRegistersChange : programming.Inv ∧ step programming = .next (after fresh (step programming)) ∧
    (after fresh (step programming)).bus.readByte 0x10000001 ≠ programming.bus.readByte 0x10000001 :=
  ⟨programming_inv, programming_steps, by decide⟩
theorem witness_OnlyItsOwnRegistersChange_mux : let s := setting 1 800000000 1 .srPostMux
    s.Inv ∧ step s = .next (after fresh (step s)) ∧ (after fresh (step s)).bus.readByte 0x10000803 ≠ s.bus.readByte 0x10000803 :=
  ⟨inv_of (by decide), next_of (by decide), by decide⟩
theorem witness_OnlyItsOwnRegistersChange_host : let s := asking bound [.busWrite 0x10000804 0xFF000000]
    s.Inv ∧ step s = .next (after fresh (step s)) ∧ (after fresh (step s)).bus.readByte 0x10000807 ≠ s.bus.readByte 0x10000807 :=
  ⟨inv_of (by decide), next_of (by decide), by decide⟩
theorem witness_OnlyCreateAndResetChangeSlots : let s := creating 0x10000100 0x10000800
    step s = .next (after s (step s)) ∧ (after s (step s)).slots ≠ s.slots :=
  ⟨next_of (by decide), by decide⟩
theorem witness_OnlyCreateAndResetChangeSlots_reset : let s := asking bound [.reset]
    step s = .next (after s (step s)) ∧ (after s (step s)).slots ≠ s.slots :=
  ⟨next_of (by decide), by decide⟩
theorem witness_StepRespectsTheOtherAgents : step programming = .next (after fresh (step programming)) ∧
    programming.schedule.head? ≠ some .reset ∧ ∀ off v, programming.schedule.head? ≠ some (.hostWrite off v) :=
  ⟨programming_steps, by decide, fun _ _ h => nomatch h⟩
/-- A write of one operand register leaves the premises on the other three met. -/
theorem witness_StepRespectsTheOtherAgents_moves :
    ∀ m ∈ [Move.sequencer, .others, .wait, .hostWrite 0x08 7], let s := asking programming [m]
      step s = .next (after fresh (step s)) ∧ s.schedule.head? ≠ some .reset ∧
        ∀ v, s.schedule.head? ≠ some (.hostWrite 0x04 v) := fun m hm =>
  ⟨next_of (by revert m; decide), by revert m; decide, fun v h => by
    cases h; revert hm; simp⟩
theorem witness_OperandsAreLatched : ∀ ms ∈ [[], [Move.sequencer], [.others], [.wait], [.tick 1]], let s := asking programming ms
    step s = .next (after fresh (step s)) ∧ s.schedule.head? ≠ some .reset ∧
      (∀ off v, s.schedule.head? ≠ some (.hostWrite off v)) ∧ ∀ off, s.schedule.head? ≠ some (.hostRead off) := by
  intro ms hm
  simp only [List.mem_cons, List.not_mem_nil, or_false] at hm
  rcases hm with rfl | rfl | rfl | rfl | rfl <;>
    exact ⟨next_of (by decide), by decide, by simp [asking, programming, poke, setting, running, bound, fresh, State.resetWith],
      by simp [asking, programming, poke, setting, running, bound, fresh, State.resetWith]⟩

/-! ## Witnesses: the host and the time source -/

theorem witness_InterfaceReadsGiveTheRegisters : ∀ off ∈ [0x00, 0x3C, 0x20, 0x24],
    (asking decoding [.hostRead off]).cfgChecked = true ∧ (asking decoding [.hostRead off]).schedule = .hostRead off :: [] := by
  decide
theorem witness_InterfaceWritesReachOnlyArgs : ∀ off ∈ [0x04, 0x08, 0x0C, 0x10, 0x14, 0x3C],
    (asking decoding [.hostWrite off 7]).cfgChecked = true ∧
      (asking decoding [.hostWrite off 7]).schedule = .hostWrite off 7 :: [] ∧ off % 4 = 0 := by decide
/-- The last register of the bus; then slot 0's, an unaligned one, the first beyond the bus, and one while a command runs. -/
theorem witness_HostBusWritesAtItsLiberty : let s := asking bound [.busWrite 0xFFFFFFFC 7]
    s.cfgChecked = true ∧ s.schedule = .busWrite 0xFFFFFFFC 7 :: [] ∧ s.bus.wf = true ∧ s.busy = false ∧
      0xFFFFFFFC % 4 = 0 ∧ 0xFFFFFFFC < 2 ^ s.cfg.addrW ∧
      ∀ i ∈ SlotId.all, ∀ f ∈ FieldId.all, (s.slot i).valid = true → s.fieldAddr i f ≠ 0xFFFFFFFC := by decide
theorem witness_HostBusWritesAtItsLiberty_refused : let s := asking bound [.busWrite 0x10000008 7]
    s.cfgChecked = true ∧ s.schedule = .busWrite 0x10000008 7 :: [] ∧ s.bus.wf = true ∧ (s.slot .s0).valid = true ∧
      s.fieldAddr .s0 .frac = 0x10000008 := by decide
theorem witness_TimeSourceSteps : let s := asking fresh [.tick (2 ^ 64 - 1 - 1000)]
    s.cfgChecked = true ∧ s.schedule = .tick (2 ^ 64 - 1 - 1000) :: [] ∧ 1 ≤ 2 ^ 64 - 1 - 1000 ∧
      s.nowUs.toNat + (2 ^ 64 - 1 - 1000) < 2 ^ 64 := by decide
theorem witness_TimeSourceSteps_default : let s := { fresh with nowUs := 0xFFFFFFFFFFFFFFFE }
    s.cfgChecked = true ∧ s.schedule = [] ∧ (s.phase = .idle ∨ s.phase = .halted) ∧ s.nowUs.toNat + 1 < 2 ^ 64 := by
  decide

end Sys2Proof.Tests
end

section
/-! PROOFS. 30_encoding.md: the fields of a command word (R59), the decoder against the match and mask table (R63, R68),
and the host's write of `CMD` (R66; 60_exceptions.md R144). -/

namespace Sys2Proof.Encoding

open Sys2Proof.Machine

/-! ## The fields of a command word (R59) -/

/-- The six fields cover the word. -/
theorem append_fields (w : Word) :
    cmdRsv w ++ (BitVec.ofBool (cmdAuxp w) ++ (cmdFld w ++ (cmdVar w ++ (cmdSlot w ++ cmdOpc w)))) = w := by
  apply BitVec.eq_of_getLsbD_eq
  intro i hi
  simp only [cmdRsv, cmdAuxp, cmdFld, cmdVar, cmdSlot, cmdOpc, BitVec.getLsbD_append]
  interval_cases i <;> simp

/-- A word whose reserved bits are 0 is the command word of its own fields. -/
theorem cmdWord_fields {w : Word} (hrsv : cmdRsv w = 0) :
    cmdWord (cmdOpc w) (cmdSlot w) (cmdVar w) (cmdFld w) (cmdAuxp w) = w := by
  have h := append_fields w
  rwa [hrsv] at h

/-! ## Rows of the match and mask table (R63) -/

theorem matchesWord_iff (r : OpcodeRow) (w : Word) :
    r.matchesWord w = true ↔
      w &&& r.mask = r.pattern ∧ (r.needsSlot = true → cmdSlot w ≠ 3) ∧ (r.needsFld = true → cmdFld w ≠ 7) := by
  simp [OpcodeRow.matchesWord, and_assoc, imp_iff_not_or]

/-- What the mask fixes: a field it covers with ones is the match word's. -/
theorem field_eq_of_and_eq {w mask pattern : Word} (h : w &&& mask = pattern) :
    (cmdRsv mask = BitVec.allOnes 20 → cmdRsv w = cmdRsv pattern) ∧
    (cmdAuxp mask = true → cmdAuxp w = cmdAuxp pattern) ∧
    (cmdFld mask = BitVec.allOnes 3 → cmdFld w = cmdFld pattern) ∧
    (cmdVar mask = BitVec.allOnes 2 → cmdVar w = cmdVar pattern) ∧
    (cmdSlot mask = BitVec.allOnes 2 → cmdSlot w = cmdSlot pattern) ∧
    (cmdOpc mask = BitVec.allOnes 4 → cmdOpc w = cmdOpc pattern) := by
  subst h
  have extract_eq {start len : Nat} (hm : mask.extractLsb' start len = BitVec.allOnes len) :
      w.extractLsb' start len = (w &&& mask).extractLsb' start len := by
    rw [BitVec.extractLsb'_and, hm, BitVec.and_allOnes]
  have bit_eq (hm : mask.getLsbD 11 = true) : w.getLsbD 11 = (w &&& mask).getLsbD 11 := by
    rw [BitVec.getLsbD_and, hm, Bool.and_true]
  exact ⟨extract_eq, bit_eq, extract_eq, extract_eq, extract_eq, extract_eq⟩

/-- Every mask covers bits 3:0, so a row matches words of its own opcode only. -/
theorem cmdOpc_of_matchesWord {r : OpcodeRow} {w : Word} (hr : r ∈ opcodeRows) (h : r.matchesWord w = true) :
    cmdOpc w = cmdOpc r.pattern := by
  obtain ⟨hand, -⟩ := (matchesWord_iff r w).mp h
  obtain ⟨-, -, -, -, -, hopc⟩ := field_eq_of_and_eq hand
  have hmask : ∀ r ∈ opcodeRows, cmdOpc r.mask = BitVec.allOnes 4 := by decide
  exact hopc (hmask r hr)

/-- The opcodes of the rows are distinct (R61). -/
theorem row_eq_of_cmdOpc_eq : ∀ r ∈ opcodeRows, ∀ r' ∈ opcodeRows,
    cmdOpc r.pattern = cmdOpc r'.pattern → r = r' := by decide

/-- No two rows match one word (R63). -/
theorem row_unique {w : Word} {r r' : OpcodeRow} (hr : r ∈ opcodeRows) (hr' : r' ∈ opcodeRows)
    (h : r.matchesWord w = true) (h' : r'.matchesWord w = true) : r = r' :=
  row_eq_of_cmdOpc_eq r hr r' hr' ((cmdOpc_of_matchesWord hr h).symm.trans (cmdOpc_of_matchesWord hr' h'))

/-- The word of a well-formed command is matched by the row of its mnemonic. -/
theorem exists_row_of_encode {i : Instr} (hwf : i.wf = true) :
    ∃ r ∈ opcodeRows, r.matchesWord (encode i) = true ∧ r.mnemonic = i.mnemonic := by
  have hrow : Laws.EncodeMatchesRow.Statement i := by
    cases i with
    | create slot var auxp => exact Laws.EncodeMatchesRow.create slot var auxp
    | findRate var => exact Laws.EncodeMatchesRow.findRate var
    | fieldLayout var fld => exact Laws.EncodeMatchesRow.fieldLayout var fld
    | fieldExtract var fld => exact Laws.EncodeMatchesRow.fieldExtract var fld
    | fieldInsert var fld => exact Laws.EncodeMatchesRow.fieldInsert var fld
    | setRate slot => exact Laws.EncodeMatchesRow.setRate slot
    | recalcRate slot => exact Laws.EncodeMatchesRow.recalcRate slot
  have hmem := List.mem_singleton_self i.mnemonic
  rw [← hrow hwf] at hmem
  obtain ⟨r, hr, hname⟩ := List.mem_map.mp hmem
  obtain ⟨hr, hmatch⟩ := List.mem_filter.mp hr
  exact ⟨r, hr, hmatch, hname⟩

/-! ## The decoder (R61, R69) -/

theorem decodeCodec_eq_ok_iff {w : Word} {mk : BitVec 2 → BitVec 3 → Instr} {i : Instr} :
    decodeCodec w mk = .ok i ↔
      (cmdSlot w = 0 ∧ cmdAuxp w = false) ∧ cmdFld w ≠ 7 ∧ mk (cmdVar w) (cmdFld w) = i := by
  unfold decodeCodec
  split_ifs <;> grind

theorem decodeSlotOnly_eq_ok_iff {w : Word} {mk : BitVec 2 → Instr} {i : Instr} :
    decodeSlotOnly w mk = .ok i ↔
      (cmdVar w = 0 ∧ cmdFld w = 0 ∧ cmdAuxp w = false) ∧ cmdSlot w ≠ 3 ∧ mk (cmdSlot w) = i := by
  unfold decodeSlotOnly
  split_ifs <;> grind

/-! The decoder's equations for the words that do what the opcode's row asks of the fields (R61). -/

section
variable {w : Word} (hrsv : cmdRsv w = 0)
include hrsv

theorem decode_create (hopc : cmdOpc w = 1) (hfld : cmdFld w = 0) (hslot : cmdSlot w ≠ 3) :
    decode w = .ok (.create (cmdSlot w) (cmdVar w) (cmdAuxp w)) := by
  simpa [decode, hrsv, hopc, hfld] using hslot

theorem decode_findRate (hopc : cmdOpc w = 2) (hslot : cmdSlot w = 0) (hfld : cmdFld w = 0) (hauxp : cmdAuxp w = false) :
    decode w = .ok (.findRate (cmdVar w)) := by
  simp [decode, hrsv, hopc, hslot, hfld, hauxp]

theorem decode_fieldLayout (hopc : cmdOpc w = 3) : decode w = decodeCodec w .fieldLayout := by
  simp [decode, hrsv, hopc]

theorem decode_fieldExtract (hopc : cmdOpc w = 4) : decode w = decodeCodec w .fieldExtract := by
  simp [decode, hrsv, hopc]

theorem decode_fieldInsert (hopc : cmdOpc w = 5) : decode w = decodeCodec w .fieldInsert := by
  simp [decode, hrsv, hopc]

theorem decode_setRate (hopc : cmdOpc w = 6) : decode w = decodeSlotOnly w .setRate := by
  simp [decode, hrsv, hopc]

theorem decode_recalcRate (hopc : cmdOpc w = 7) : decode w = decodeSlotOnly w .recalcRate := by
  simp [decode, hrsv, hopc]

end

/-- A word that a codec branch decodes is spelt with every unused field 0. -/
theorem cmdWord_of_decodeCodec {w : Word} {opc : BitVec 4} {mk : BitVec 2 → BitVec 3 → Instr} {i : Instr}
    (hrsv : cmdRsv w = 0) (hopc : cmdOpc w = opc) (hd : decodeCodec w mk = .ok i) :
    mk (cmdVar w) (cmdFld w) = i ∧ cmdWord opc 0 (cmdVar w) (cmdFld w) false = w ∧ (cmdFld w != 7) = true := by
  obtain ⟨⟨hslot, hauxp⟩, hfld, hi⟩ := decodeCodec_eq_ok_iff.mp hd
  have hw := cmdWord_fields hrsv
  rw [hopc, hslot, hauxp] at hw
  exact ⟨hi, hw, bne_iff_ne.mpr hfld⟩

/-- A word that a `SLOT`-only branch decodes is spelt with every unused field 0. -/
theorem cmdWord_of_decodeSlotOnly {w : Word} {opc : BitVec 4} {mk : BitVec 2 → Instr} {i : Instr}
    (hrsv : cmdRsv w = 0) (hopc : cmdOpc w = opc) (hd : decodeSlotOnly w mk = .ok i) :
    mk (cmdSlot w) = i ∧ cmdWord opc (cmdSlot w) 0 0 false = w ∧ (cmdSlot w != 3) = true := by
  obtain ⟨⟨hvar, hfld, hauxp⟩, hslot, hi⟩ := decodeSlotOnly_eq_ok_iff.mp hd
  have hw := cmdWord_fields hrsv
  rw [hopc, hvar, hfld, hauxp] at hw
  exact ⟨hi, hw, bne_iff_ne.mpr hslot⟩

/-- A decoded word is the encoding of its command, which is well formed: one case per branch that answers a command. -/
theorem encode_of_decode {w : Word} {i : Instr} (h : decode w = .ok i) : encode i = w ∧ i.wf = true := by
  unfold decode at h
  split at h
  · cases h
  next hrsv =>
  have hrsv : cmdRsv w = 0 := not_not.mp hrsv
  have hw := cmdWord_fields hrsv
  split_ifs at h with hopc hfld hslot hopc hunused hopc hopc hopc hopc hopc
  · cases h
    rw [hopc, not_not.mp hfld] at hw
    exact ⟨hw, bne_iff_ne.mpr hslot⟩
  · cases h
    simp only [not_or, not_not, Bool.not_eq_true] at hunused
    obtain ⟨hslot, hfld, hauxp⟩ := hunused
    rw [hopc, hslot, hfld, hauxp] at hw
    exact ⟨hw, rfl⟩
  · obtain ⟨rfl, hspelt⟩ := cmdWord_of_decodeCodec hrsv hopc h
    exact hspelt
  · obtain ⟨rfl, hspelt⟩ := cmdWord_of_decodeCodec hrsv hopc h
    exact hspelt
  · obtain ⟨rfl, hspelt⟩ := cmdWord_of_decodeCodec hrsv hopc h
    exact hspelt
  · obtain ⟨rfl, hspelt⟩ := cmdWord_of_decodeSlotOnly hrsv hopc h
    exact hspelt
  · obtain ⟨rfl, hspelt⟩ := cmdWord_of_decodeSlotOnly hrsv hopc h
    exact hspelt

/-- The decoder takes every word that a row matches: the row fixes the fields its opcode does not use at 0. -/
theorem exists_decode_of_matchesWord {r : OpcodeRow} {w : Word} (hr : r ∈ opcodeRows) (h : r.matchesWord w = true) :
    ∃ i, decode w = .ok i := by
  obtain ⟨hand, hslot3, hfld7⟩ := (matchesWord_iff r w).mp h
  obtain ⟨hrsv, hauxp, hfld, hvar, hslot, hopc⟩ := field_eq_of_and_eq hand
  simp only [opcodeRows, List.mem_cons, List.not_mem_nil, or_false] at hr
  rcases hr with rfl | rfl | rfl | rfl | rfl | rfl | rfl
  · exact ⟨_, decode_create (hrsv rfl) (hopc rfl) (hfld rfl) (hslot3 rfl)⟩
  · exact ⟨_, decode_findRate (hrsv rfl) (hopc rfl) (hslot rfl) (hfld rfl) (hauxp rfl)⟩
  · exact ⟨_, (decode_fieldLayout (hrsv rfl) (hopc rfl)).trans <|
      decodeCodec_eq_ok_iff.mpr ⟨⟨hslot rfl, hauxp rfl⟩, hfld7 rfl, rfl⟩⟩
  · exact ⟨_, (decode_fieldExtract (hrsv rfl) (hopc rfl)).trans <|
      decodeCodec_eq_ok_iff.mpr ⟨⟨hslot rfl, hauxp rfl⟩, hfld7 rfl, rfl⟩⟩
  · exact ⟨_, (decode_fieldInsert (hrsv rfl) (hopc rfl)).trans <|
      decodeCodec_eq_ok_iff.mpr ⟨⟨hslot rfl, hauxp rfl⟩, hfld7 rfl, rfl⟩⟩
  · exact ⟨_, (decode_setRate (hrsv rfl) (hopc rfl)).trans <|
      decodeSlotOnly_eq_ok_iff.mpr ⟨⟨hvar rfl, hfld rfl, hauxp rfl⟩, hslot3 rfl, rfl⟩⟩
  · exact ⟨_, (decode_recalcRate (hrsv rfl) (hopc rfl)).trans <|
      decodeSlotOnly_eq_ok_iff.mpr ⟨⟨hvar rfl, hfld rfl, hauxp rfl⟩, hslot3 rfl, rfl⟩⟩

/-- A command is matched by the row that names it. -/
theorem exists_row_of_decode {w : Word} {i : Instr} (h : decode w = .ok i) :
    ∃ r ∈ opcodeRows, r.matchesWord w = true ∧ r.mnemonic = i.mnemonic := by
  obtain ⟨rfl, hwf⟩ := encode_of_decode h
  exact exists_row_of_encode hwf

/-- Settles O3: a decoded word is the encoding of its command, whose row matches it; a row that matches fixes the fields
as the decoder asks; and a row matches words of its own opcode only. -/
theorem wordIsACommandWhenARowMatches : Obligations.WordIsACommandWhenARowMatches := by
  refine ⟨fun w => ⟨?_, ?_⟩, fun w i h => exists_row_of_decode h, fun w r hr r' hr' h h' => row_unique hr hr' h h'⟩
  · rintro ⟨i, h⟩
    obtain ⟨r, hr, hmatch, -⟩ := exists_row_of_decode h
    exact ⟨r, hr, hmatch⟩
  · rintro ⟨r, hr, h⟩
    exact exists_decode_of_matchesWord hr h

/-! ## The host's write of the interface (10_state.md R20; 30_encoding.md R66; 60_exceptions.md R144) -/

/-- A scheduled interface write at an offset the interface has is taken off the schedule and made. -/
theorem step_hostWrite {s : State} {off : Nat} {v : Word} {ms : List Move} (hc : s.cfgChecked = true)
    (hs : s.schedule = .hostWrite off v :: ms) (hoff : ifaceOk off = true) :
    step s = .next (State.ifaceWrite { s with schedule := ms } off v) := by
  rw [step_move hc hs]
  exact if_pos hoff

/-- `BUSY = 0`: the write of `CMD` is acceptance. -/
theorem step_cmd_idle {s : State} {w : Word} {ms : List Move} (hc : s.cfgChecked = true)
    (hs : s.schedule = .hostWrite 0x00 w :: ms) (hb : s.busy = false) :
    step s = .next (State.accept { s with schedule := ms } w) := by
  rw [step_hostWrite hc hs rfl]
  exact congrArg _ (if_neg (Bool.eq_false_iff.mp hb))

/-- `BUSY = 1`: the write of `CMD` is the fault `CMD_WHILE_BUSY`. -/
theorem step_cmd_busy {s : State} {w : Word} {ms : List Move} (hc : s.cfgChecked = true)
    (hs : s.schedule = .hostWrite 0x00 w :: ms) (hb : s.busy = true) :
    step s = .next (State.raise { s with schedule := ms } .cmdWhileBusy) := by
  rw [step_hostWrite hc hs rfl]
  exact congrArg _ (if_pos hb)

/-- Settles O10: the host's step accepts the word when `BUSY = 0`, and else raises `CMD_WHILE_BUSY`. -/
theorem commandWriteIsAccepted : Obligations.CommandWriteIsAccepted := by
  intro s w ms hc hs
  constructor
  · exact fun hb => step_cmd_idle hc hs hb
  · intro hb
    exact ⟨_, step_cmd_busy hc hs hb, rfl, rfl, rfl, rfl, rfl, rfl, fun hf => by simp [hf, FaultCode.bits]⟩

end Sys2Proof.Encoding
end

section
/-! PROOFS. The `EXEC` step of `FIND_RATE` (41_rate_lookup.md R74 to R76). -/

namespace Sys2Proof.RateLookup

open Sys2Proof.Machine

/-- In `EXEC`, `FIND_RATE` takes its effect (30_encoding.md R67). -/
theorem exec_findRate_of_exec {s : State} {var : BitVec 2} (hp : s.phase = .exec) :
    exec (.findRate var) s = .next (findRateEffect var s) :=
  State.decodeThenExec_eq_next.mpr (.inr ⟨hp, rfl⟩)

/-- The effect of `FIND_RATE` of one of the three variants, by the answer of the search (41_rate_lookup.md R75). -/
theorem findRateEffect_of_variant {s : State} {var : BitVec 2} {v : Variant} (hv : Variant.ofBits var = some v) :
    findRateEffect var s = ((findRate (s.cfg.rateTable.get v) s.latch.operandLo).elim
      (s.finish .ok 0 0 0 false) fun i => s.finish .ok (BitVec.ofNat 32 i) 0 0 true) := by
  simp only [findRateEffect, hv]
  cases findRate (s.cfg.rateTable.get v) s.latch.operandLo <;> rfl

/-- Settles O19: the search of a table without the target finds nothing, and `FIND_RATE` then finishes `OK` with
`FOUND = 0`. -/
theorem findRateMissesAbsentTargets : Obligations.FindRateMissesAbsentTargets := by
  intro s var v hv hp habsent
  have hnone : findRate (s.cfg.rateTable.get v) s.latch.operandLo = none := findRate_eq_none.mpr habsent
  rw [exec_findRate_of_exec hp, findRateEffect_of_variant hv, hnone]
  rfl

end Sys2Proof.RateLookup
end

section
/-! PROOFS. The field codec: its two laws (42_field_codec.md R81, R83), the `EXEC` step of the three codec commands
(R84 to R87), and `VAR = 3` of every command that looks things up (R84; 41_rate_lookup.md R75). -/

namespace Sys2Proof.FieldCodec

open Sys2Proof.Machine

/-! ## The two functions on one field (R81 to R83) -/

/-- Bit `i` of an extracted field is bit `SHIFT + i` of the register, for the `WIDTH` bits the mask keeps (R77, R81). -/
theorem extractField_fieldMask_getLsbD (l : FieldLayout) (raw : Word) (i : Nat) :
    (extractField raw (fieldMask l) l.shift).getLsbD i = (decide (i < l.width) && raw.getLsbD (l.shift + i)) := by
  rw [extractField_getLsbD, fieldMask_getLsbD]
  by_cases hreg : l.shift + i < 32
  · simp [hreg, Bool.and_comm]
  · simp [BitVec.getLsbD_of_ge raw (l.shift + i) (by omega)]

/-- An extracted value is below `2^WIDTH` (R81): it has no bit from `WIDTH` on. -/
theorem extractField_lt_two_pow (l : FieldLayout) (raw : Word) :
    (extractField raw (fieldMask l) l.shift).toNat < 2 ^ l.width := by
  refine Nat.lt_pow_two_of_testBit _ fun i hi => ?_
  rw [BitVec.testBit_toNat, extractField_fieldMask_getLsbD, decide_eq_false (by omega), Bool.false_and]

/-- The bits of a field after an insert are those of the value, when the field lies inside the register (R82). -/
theorem insertField_getLsbD_of_lt_width {l : FieldLayout} (raw val : Word) {i : Nat} (hfit : l.shift + l.width ≤ 32)
    (hi : i < l.width) :
    (insertField raw (fieldMask l) l.shift val).getLsbD (l.shift + i) = val.getLsbD i := by
  have hreg : l.shift + i < 32 := by omega
  rw [insertField_getLsbD, fieldMask_getLsbD]
  simp [hreg, hi]

/-- A value that fits reads back as inserted (R83): below `WIDTH` its bits were inserted, from `WIDTH` on it has none. -/
theorem extractField_insertField_same {l : FieldLayout} (raw : Word) {val : Word} (hfit : l.shift + l.width ≤ 32)
    (hval : val.toNat < 2 ^ l.width) :
    extractField (insertField raw (fieldMask l) l.shift val) (fieldMask l) l.shift = val := by
  apply BitVec.eq_of_getLsbD_eq
  intro i _
  rw [extractField_fieldMask_getLsbD]
  by_cases hi : i < l.width
  · simp [hi, insertField_getLsbD_of_lt_width raw val hfit hi]
  · simp [hi, getLsbD_of_lt_two_pow hval (Nat.le_of_not_lt hi)]

/-- An insert keeps every bit outside the mask (R83). -/
theorem insertField_and_not_mask (raw mask : Word) (shift : Nat) (val : Word) :
    insertField raw mask shift val &&& ~~~mask = raw &&& ~~~mask := by
  apply BitVec.eq_of_getLsbD_eq
  intro i _
  rw [BitVec.getLsbD_and, BitVec.getLsbD_and, BitVec.getLsbD_not, insertField_getLsbD]
  cases mask.getLsbD i <;> simp

/-- Settles O24, by the three laws of the codec on one field. -/
theorem insertThenExtractReturnsTheValue : Obligations.InsertThenExtractReturnsTheValue :=
  fun l raw val hfit =>
    ⟨extractField_insertField_same raw hfit, insertField_and_not_mask raw (fieldMask l) l.shift val,
      extractField_lt_two_pow l raw⟩

/-! ## The `EXEC` step of the codec commands (R84 to R87) -/

section
variable {s : State} {var : BitVec 2} {fld : BitVec 3} {f : FieldId} (hf : FieldId.ofBits fld = some f)
  (hp : s.phase = .exec)
include hf hp

theorem exec_fieldLayout_of_exec : exec (.fieldLayout var fld) s = .next (codecEffect var f layoutEffect s) := by
  simp only [exec, execFieldLayout, hf]
  exact State.decodeThenExec_eq_next.mpr (.inr ⟨hp, rfl⟩)

theorem exec_fieldExtract_of_exec : exec (.fieldExtract var fld) s = .next (codecEffect var f extractEffect s) := by
  simp only [exec, execFieldExtract, hf]
  exact State.decodeThenExec_eq_next.mpr (.inr ⟨hp, rfl⟩)

theorem exec_fieldInsert_of_exec : exec (.fieldInsert var fld) s = .next (codecEffect var f insertEffect s) := by
  simp only [exec, execFieldInsert, hf]
  exact State.decodeThenExec_eq_next.mpr (.inr ⟨hp, rfl⟩)

end

/-- Every `FLD` but the reserved 7 names a field (30_encoding.md R62). -/
theorem exists_field_of_ne_seven {fld : BitVec 3} (h : fld ≠ 7) : ∃ f, FieldId.ofBits fld = some f :=
  Option.ne_none_iff_exists'.mp (mt (FieldId.ofBits_eq_none fld).mp h)

/-! ## A variant outside the closed set (R84; 41_rate_lookup.md R75) -/

theorem codecEffect_of_no_variant {var : BitVec 2} (hv : Variant.ofBits var = none) (f : FieldId)
    (effect : FieldLayout → State → State) (s : State) :
    codecEffect var f effect s = s.finishError .invalidVariant := by
  simp only [codecEffect, hv]

theorem findRateEffect_of_no_variant {var : BitVec 2} (hv : Variant.ofBits var = none) (s : State) :
    findRateEffect var s = s.finishError .invalidVariant := by
  simp only [findRateEffect, hv]

/-- `VAR = 3` decides the outcome of each of the four commands, before any table or layout is looked at. -/
theorem exec_eq_finishError_of_no_variant {s : State} {fld : BitVec 3} (hp : s.phase = .exec) (hfld : fld ≠ 7) :
    ∀ c ∈ [Instr.findRate 3, .fieldLayout 3 fld, .fieldExtract 3 fld, .fieldInsert 3 fld],
      exec c s = .next (s.finishError .invalidVariant) := by
  have hv : Variant.ofBits 3 = none := (Variant.ofBits_eq_none 3).mpr rfl
  obtain ⟨f, hf⟩ := exists_field_of_ne_seven hfld
  simp only [List.forall_mem_cons, List.not_mem_nil, false_implies, implies_true, and_true]
  refine ⟨?findRate, ?fieldLayout, ?fieldExtract, ?fieldInsert⟩
  case findRate => rw [RateLookup.exec_findRate_of_exec hp, findRateEffect_of_no_variant hv]
  case fieldLayout => rw [exec_fieldLayout_of_exec hf hp, codecEffect_of_no_variant hv]
  case fieldExtract => rw [exec_fieldExtract_of_exec hf hp, codecEffect_of_no_variant hv]
  case fieldInsert => rw [exec_fieldInsert_of_exec hf hp, codecEffect_of_no_variant hv]

/-- Settles O20: each of the four commands finishes `INVALID_VARIANT`, which is status 3 with all results 0. -/
theorem lookupsRefuseAVariantOutsideTheSet : Obligations.LookupsRefuseAVariantOutsideTheSet :=
  fun _ _ hp hfld c hc => exec_eq_finishError_of_no_variant hp hfld c hc

end Sys2Proof.FieldCodec
end

section
/-! PROOFS. The steps of `SET_RATE` (43_set_rate.md R91 to R107): what each phase leaves, and the run of a frequency
that the table lacks. -/

namespace Sys2Proof.SetRate

open Sys2Proof.Machine

/-! ## One `RMW`, written out (42_field_codec.md R88) -/

/-- An `RMW` changes the one register and puts its read and its write in `TRACE`, in this order. -/
theorem rmw_eq (s : State) (a : Nat) (l : FieldLayout) (val : Word) :
    s.rmw a l val = { s with
      bus := s.bus.writeWord s.cfg.busEndian a
        (insertField (s.bus.readWord s.cfg.busEndian a) (fieldMask l) l.shift val)
      trace := s.trace ++ [.rd a (s.bus.readWord s.cfg.busEndian a),
        .wr a (insertField (s.bus.readWord s.cfg.busEndian a) (fieldMask l) l.shift val)] } := by
  have htrace := s.rmw_trace a l val
  rw [List.append_assoc] at htrace
  exact congrArg (fun tr => ({ s.rmw a l val with trace := tr } : State)) htrace

/-! ## The value an entry gives each field (R94) -/

theorem entryValue_frac (e : RateEntry) :
    entryValue e .frac = if e.useFraction then BitVec.ofNat 32 e.frac.toNat else 0 := by
  simp only [entryValue, entryFrac]
  cases e.useFraction
  · rfl
  · exact BitVec.eq_of_toNat_eq (by simp)

/-- A post-divider that is a power of two is written as its exponent. -/
theorem entryValue_postdiv {e : RateEntry} {k : Nat} (hk : e.postdiv1.toNat = 2 ^ k) :
    entryValue e .postdiv = BitVec.ofNat 32 k := by
  rw [entryValue, entryShift, hk, Nat.log2_two_pow]

/-! ## The step of each phase (R91 to R103, R105) -/

section
variable {s : State} {slot : BitVec 2} {i : SlotId} (hs : SlotId.ofBits slot = some i)
include hs

theorem exec_decode (hp : s.phase = .decode) (hv : (s.slot i).valid = true) :
    exec (.setRate slot) s = .next { s with phase := .srLookup } := by
  simp only [exec, execSetRate, hs, hp, State.decodeBound, hv, if_true]

theorem exec_srLookup (hp : s.phase = .srLookup) : exec (.setRate slot) s = .next (s.srLookup i) := by
  simp only [exec, execSetRate, hs, hp]

theorem exec_srPreMux (hp : s.phase = .srPreMux) (ha : s.busOk (s.muxAddr i) = true) :
    exec (.setRate slot) s =
      .next { s.rmw (s.muxAddr i) s.cfg.auxMux s.cfg.selRefDiv2 with phase := .srPdOn } := by
  simp only [exec, execSetRate, hs, hp]
  exact State.onBus_of_busOk ha

theorem exec_srPdOn (hp : s.phase = .srPdOn) (ha : s.busOk (s.fieldAddr i .pd) = true) :
    exec (.setRate slot) s =
      .next { s.rmw (s.fieldAddr i .pd) (s.slotLayout i .pd) 1 with phase := .srWDacpd } := by
  simp only [exec, execSetRate, hs, hp]
  exact State.onBus_of_busOk ha

/-- Each write step writes its field with the value of the entry at `IDX`. -/
theorem exec_writeStep {f : FieldId} {p : Phase} {e : RateEntry} (hstep : (f, s.phase, p) ∈ writeSteps)
    (he : s.entry i = some e) (ha : s.busOk (s.fieldAddr i f) = true) :
    exec (.setRate slot) s =
      .next { s.rmw (s.fieldAddr i f) (s.slotLayout i f) (entryValue e f) with phase := p } := by
  have hexec : exec (.setRate slot) s = s.writeEntryField i f p := by
    simp only [writeSteps, List.mem_cons, Prod.mk.injEq, List.not_mem_nil, or_false] at hstep
    obtain ⟨rfl, hp, rfl⟩ | ⟨rfl, hp, rfl⟩ | ⟨rfl, hp, rfl⟩ | ⟨rfl, hp, rfl⟩ | ⟨rfl, hp, rfl⟩ | ⟨rfl, hp, rfl⟩ :=
      hstep <;>
      simp only [exec, execSetRate, hs, hp]
  simp only [hexec, State.writeEntryField, he]
  exact State.onBus_of_busOk ha

theorem exec_srPdOff (hp : s.phase = .srPdOff) (ha : s.busOk (s.fieldAddr i .pd) = true) :
    exec (.setRate slot) s =
      .next (if (s.slot i).variant = .b
        then { s.rmw (s.fieldAddr i .pd) (s.slotLayout i .pd) 0 with t0 := s.nowUs, phase := .srDelay }
        else { s.rmw (s.fieldAddr i .pd) (s.slotLayout i .pd) 0 with
          ref := s.cfg.parentRate.get i, phase := .rcRDacpd }) := by
  simp only [exec, execSetRate, hs, hp]
  exact State.onBus_of_busOk ha

theorem exec_srPostMux (hp : s.phase = .srPostMux) (ha : s.busOk (s.muxAddr i) = true) :
    exec (.setRate slot) s =
      .next { s.rmw (s.muxAddr i) s.cfg.auxMux s.cfg.selPllDiv2 with
        ref := s.cfg.parentRate.get i, phase := .rcRDacpd } := by
  simp only [exec, execSetRate, hs, hp]
  exact State.onBus_of_busOk ha

end

/-! ## What `SR_LOOKUP` leaves, by the answer of the search (R91) -/

/-- The targets of the table of a well-formed configuration are distinct (41_rate_lookup.md R72 item 2). -/
theorem targetsDistinct_of_wf {c : Config} (hc : Config.wf c = true) (v : Variant) :
    targetsDistinct (c.rateTable.get v) = true := by
  simp only [Config.wf, Bool.and_eq_true, List.all_eq_true] at hc
  obtain ⟨⟨-, htables⟩, -⟩ := hc
  have htable := htables v (Variant.mem_all v)
  simp only [Config.tableOk, Bool.and_eq_true] at htable
  obtain ⟨⟨-, hdistinct⟩, -⟩ := htable
  exact hdistinct

/-- No entry has the target: the command ends with `UNSUPPORTED_RATE`. -/
theorem srLookup_of_absent {s : State} {i : SlotId}
    (habsent : ∀ e ∈ s.slotTable i, e.target ≠ s.latch.operandLo) :
    s.srLookup i = s.finishError .unsupportedRate := by
  simp only [State.srLookup, findRate_eq_none.mpr habsent]

/-- Entry `n` of a table with distinct targets has the target: the variant and the aux block choose the way. -/
theorem srLookup_of_entry {s : State} {i : SlotId} {n : Nat} {e : RateEntry}
    (hd : targetsDistinct (s.slotTable i) = true) (hn : (s.slotTable i)[n]? = some e)
    (ht : e.target = s.latch.operandLo) :
    s.srLookup i =
      if (s.slot i).variant = .b ∧ ¬ (s.slot i).auxp then s.raise .missingAux
      else { s with
        idx := BitVec.ofNat 4 n
        phase := if (s.slot i).variant = .b then .srPreMux else .srPdOn } := by
  simp only [State.srLookup, findRate_of_getElem hd hn ht]

/-! ## The statements of single steps -/

/-- Settles O26, by the answer of the search and, for a found rate, by the slot's variant and aux block. -/
theorem lookupPhaseChoosesTheWay : Obligations.LookupPhaseChoosesTheWay := by
  intro s slot i hs hp hc hz table
  rw [exec_srLookup hs hp]
  refine ⟨fun habsent => congrArg _ (srLookup_of_absent habsent), fun n e hn ht => ?_⟩
  rw [srLookup_of_entry (targetsDistinct_of_wf hc _) hn ht]
  refine ⟨?missing, ?mux, ?powerDown⟩
  case missing =>
    rintro ⟨hv, haux⟩
    rw [if_pos ⟨hv, by simp [haux]⟩]
    rfl
  case mux =>
    rintro ⟨hv, haux⟩
    rw [if_neg (by simp [haux]), if_pos hv]
  case powerDown =>
    intro hv
    rw [if_neg fun h => hv h.1, if_neg hv]

/-- Settles O27: each listed step is one of `writeSteps`, and its value is the one the entry gives. -/
theorem writeStepsProgramTheEntry : Obligations.WriteStepsProgramTheEntry := by
  intro s slot i e k hs he hk mode frac w hw a l hp halign hrange
  have hlisted : (w.1, w.2.1, w.2.2.1) ∈ writeSteps ∧ entryValue e w.1 = w.2.2.2 := by
    simp only [List.mem_cons, List.not_mem_nil, or_false] at hw
    obtain rfl | rfl | rfl | rfl | rfl | rfl := hw <;> refine ⟨by simp [writeSteps], ?_⟩
    exacts [rfl, rfl, entryValue_frac e, rfl, rfl, entryValue_postdiv hk]
  obtain ⟨hstep, hvalue⟩ := hlisted
  rw [exec_writeStep hs (hp ▸ hstep) he (State.busOk_iff.mpr ⟨halign, hrange⟩), rmw_eq, hvalue]

/-- Settles O28, by the two steps that write `PD`. -/
theorem powerDownBracketsTheWrites : Obligations.PowerDownBracketsTheWrites := by
  intro s slot i hs a l r put halign hrange
  have hok : s.busOk (s.fieldAddr i .pd) = true := State.busOk_iff.mpr ⟨halign, hrange⟩
  refine ⟨fun hp => ?_, fun hp hv => ?_, fun hp hv => ?_⟩
  · rw [exec_srPdOn hs hp hok, rmw_eq]
  · rw [exec_srPdOff hs hp hok, if_pos hv, rmw_eq]
  · rw [exec_srPdOff hs hp hok, if_neg hv, rmw_eq]

/-- Settles O29, by the two steps that write the mux field. -/
theorem muxStepsHandTheBusClockOver : Obligations.MuxStepsHandTheBusClockOver := by
  intro s slot i hs a l r put halign hrange
  have hok : s.busOk (s.muxAddr i) = true := State.busOk_iff.mpr ⟨halign, hrange⟩
  constructor
  · intro hp
    rw [exec_srPreMux hs hp hok, rmw_eq]
  · intro hp
    rw [exec_srPostMux hs hp hok, rmw_eq]

/-! ## The run of a frequency the table lacks (R107) -/

/-- A command left alone takes its step whenever the sequencer has one. -/
theorem step_alone_of_enabled {s : State} {c : Instr} (h : s.alone) (he : s.seqEnabled = true)
    (hd : decode s.latch.word = .ok c) : step s = exec c s := by
  rw [step_alone h, State.autoStep_of_enabled he hd]

/-- Left alone, a `SET_RATE` of a bound slot goes from `DECODE` to the lookup. -/
theorem step_decode {s : State} {slot : BitVec 2} {i : SlotId} (h : s.alone) (hp : s.phase = .decode)
    (hd : decode s.latch.word = .ok (.setRate slot)) (hs : SlotId.ofBits slot = some i)
    (hv : (s.slot i).valid = true) : step s = .next { s with phase := .srLookup } := by
  rw [step_alone_of_enabled h (by rw [State.seqEnabled, hp]) hd, exec_decode hs hp hv]

/-- Left alone, a `SET_RATE` of a frequency the table lacks ends in the lookup. -/
theorem step_srLookup_of_absent {s : State} {slot : BitVec 2} {i : SlotId} (h : s.alone) (hp : s.phase = .srLookup)
    (hd : decode s.latch.word = .ok (.setRate slot)) (hs : SlotId.ofBits slot = some i)
    (habsent : ∀ e ∈ s.slotTable i, e.target ≠ s.latch.operandLo) :
    step s = .next (s.finishError .unsupportedRate) := by
  rw [step_alone_of_enabled h (by rw [State.seqEnabled, hp]) hd, exec_srLookup hs hp, srLookup_of_absent habsent]

/-- Settles O39: the run is the `DECODE` step and the `SR_LOOKUP` step, and neither accesses the bus. -/
theorem absentRateTouchesNoRegister : Obligations.AbsentRateTouchesNoRegister := by
  intro s slot i halone hp hd hs hv habsent
  have hlookup := step_srLookup_of_absent (s := { s with phase := .srLookup }) halone rfl hd hs habsent
  have hrun : Host.Core.run Sys2Proof.core 2 s =
      .next (State.finishError { s with phase := .srLookup } .unsupportedRate) :=
    (run_succ (step_decode halone hp hd hs hv)).trans ((run_succ hlookup).trans (run_zero _))
  exact ⟨_, hrun, ⟨rfl, rfl⟩, rfl, rfl, rfl, rfl, rfl, rfl, rfl⟩

end Sys2Proof.SetRate
end

section
/-! PROOFS. The recalc phases that `SET_RATE` and `RECALC_RATE` share (44_recalc_rate.md R114 to R127): the six read-back
steps, the datapath, `RC_COMPUTE`, and the run of a `RECALC_RATE` left alone. -/

namespace Sys2Proof.RecalcRate

open Sys2Proof.Machine

/-! ## The datapath (R122, R127) -/

/-- The quotient and the shift are one truncation of the exact rational: `floor(floor(a / b) / c) = floor(a / (b * c))`. -/
theorem recalc_eq_div (ref fbdiv frac prediv k : Nat) :
    recalc ref fbdiv frac prediv k = recalcNum ref fbdiv frac / (prediv * 2 ^ (24 + k)) := by
  rw [recalc, Nat.shiftRight_eq_div_pow, Nat.div_div_eq_div_mul]

theorem recalc_le_num (ref fbdiv frac prediv k : Nat) : recalc ref fbdiv frac prediv k ≤ recalcNum ref fbdiv frac := by
  rw [recalc_eq_div]
  exact Nat.div_le_self _ _

theorem recalc_of_num_eq_zero {ref fbdiv frac : Nat} (h : recalcNum ref fbdiv frac = 0) (prediv k : Nat) :
    recalc ref fbdiv frac prediv k = 0 :=
  Nat.le_zero.mp (h ▸ recalc_le_num ref fbdiv frac prediv k)

/-- A shift by `24 + 40` or more leaves nothing of a quotient below `2^64`. -/
theorem recalc_of_forty_le {ref fbdiv frac prediv k : Nat} (hnum : recalcNum ref fbdiv frac < 2 ^ 64) (hpre : 1 ≤ prediv)
    (hk : 40 ≤ k) : recalc ref fbdiv frac prediv k = 0 := by
  have hpow : 2 ^ 64 ≤ 2 ^ (24 + k) := Nat.pow_le_pow_right (by decide) (by omega)
  rw [recalc_eq_div]
  exact Nat.div_eq_of_lt (hnum.trans_le (hpow.trans (Nat.le_mul_of_pos_left _ hpre)))

/-- Settles O34: the result is at most the product, and the product or the shifted quotient vanishes at the corners. -/
theorem recalcVanishesAtItsCorners : Obligations.RecalcVanishesAtItsCorners := by
  intro ref fbdiv frac prediv k hpre hnum
  refine ⟨(recalc_le_num ..).trans_lt hnum, recalc_of_forty_le hnum hpre, fun href => ?_, fun hfb hfrac => ?_⟩ <;>
    refine recalc_of_num_eq_zero ?_ prediv k
  · rw [recalcNum, href, Nat.zero_mul]
  · rw [recalcNum, hfb, hfrac, Nat.zero_mul, Nat.add_zero, Nat.mul_zero]

/-! ## `RC_COMPUTE`, check by check (R121, R125) -/

theorem modeValid_iff (dacpd dsmpd : BitVec 1) : modeValid dacpd dsmpd = true ↔ dacpd = dsmpd := by
  revert dacpd dsmpd; decide

section
variable {s : State}

theorem rcCompute_of_mixed_modes (hmode : s.rbDacpd ≠ s.rbDsmpd) : s.rcCompute = s.finishError .invalidPllMode := by
  have hinvalid : modeValid s.rbDacpd s.rbDsmpd = false := by
    rw [← Bool.not_eq_true, modeValid_iff]
    exact hmode
  rw [State.rcCompute, hinvalid]
  rfl

/-- Past the check of the mode bits (R121), two checks and the result are left. -/
theorem rcCompute_of_equal_modes (hmode : s.rbDacpd = s.rbDsmpd) :
    s.rcCompute =
      if s.rbPrediv = 0 then s.raise .zeroPrediv
      else if 2 ^ 64 ≤ recalcNum s.ref.toNat s.rbFbdiv.toNat s.fracc then s.raise .arithOverflow
      else
        let rate := BitVec.ofNat 64 (recalc s.ref.toNat s.rbFbdiv.toNat s.fracc s.rbPrediv.toNat s.rbPostdiv.toNat)
        s.finish .ok (lowWord rate) (highWord rate) 0 false := by
  simp only [State.rcCompute, (modeValid_iff _ _).mpr hmode, Bool.not_true, Bool.false_eq_true, if_false]

theorem rcCompute_of_zero_prediv (hmode : s.rbDacpd = s.rbDsmpd) (hpre : s.rbPrediv = 0) :
    s.rcCompute = s.raise .zeroPrediv := by
  rw [rcCompute_of_equal_modes hmode, if_pos hpre]

theorem rcCompute_of_overflow (hmode : s.rbDacpd = s.rbDsmpd) (hpre : s.rbPrediv ≠ 0)
    (hnum : 2 ^ 64 ≤ recalcNum s.ref.toNat s.rbFbdiv.toNat s.fracc) : s.rcCompute = s.raise .arithOverflow := by
  rw [rcCompute_of_equal_modes hmode, if_neg hpre, if_pos hnum]

theorem lowWord_ofNat (n : Nat) : lowWord (BitVec.ofNat 64 n) = BitVec.ofNat 32 n := by
  apply BitVec.eq_of_toNat_eq
  simp only [lowWord, BitVec.extractLsb'_toNat, BitVec.toNat_ofNat, Nat.shiftRight_zero]
  omega

theorem highWord_ofNat (n : Nat) : highWord (BitVec.ofNat 64 n) = BitVec.ofNat 32 (n / 2 ^ 32) := by
  apply BitVec.eq_of_toNat_eq
  simp only [highWord, BitVec.extractLsb'_toNat, BitVec.toNat_ofNat, Nat.shiftRight_eq_div_pow]
  omega

theorem rcCompute_of_fits (hmode : s.rbDacpd = s.rbDsmpd) (hpre : s.rbPrediv ≠ 0)
    (hnum : recalcNum s.ref.toNat s.rbFbdiv.toNat s.fracc < 2 ^ 64) :
    let rate := recalcNum s.ref.toNat s.rbFbdiv.toNat s.fracc / (s.rbPrediv.toNat * 2 ^ (24 + s.rbPostdiv.toNat))
    s.rcCompute = s.finish .ok (BitVec.ofNat 32 rate) (BitVec.ofNat 32 (rate / 2 ^ 32)) 0 false := by
  rw [rcCompute_of_equal_modes hmode, if_neg hpre, if_neg (Nat.not_le.mpr hnum)]
  simp only [recalc_eq_div, lowWord_ofNat, highWord_ofNat]

end

/-! ## The read-back steps (R115 to R120) -/

/-- The six read-back steps: the field, the phase it is read in, the next phase. -/
def readSteps : List (FieldId × Phase × Phase) :=
  [(.dacpd, .rcRDacpd, .rcRDsmpd), (.dsmpd, .rcRDsmpd, .rcRPrediv), (.prediv, .rcRPrediv, .rcRFbdiv),
   (.fbdiv, .rcRFbdiv, .rcRPostdiv), (.postdiv, .rcRPostdiv, .rcRFrac), (.frac, .rcRFrac, .rcCompute)]

/-- The state with `v` in the working register of a field (10_state.md R28); `PD` has none. -/
def putReadBack (s : State) (v : Word) : FieldId → State
  | .dacpd   => { s with rbDacpd := v.setWidth 1 }
  | .dsmpd   => { s with rbDsmpd := v.setWidth 1 }
  | .prediv  => { s with rbPrediv := v }
  | .fbdiv   => { s with rbFbdiv := v }
  | .postdiv => { s with rbPostdiv := v }
  | .frac    => { s with rbFrac := v }
  | .pd      => s

/-- What the read-back step of field `f` of slot `i` that goes to phase `p` makes of `u`, the bus being that of `s`. -/
def readField (s : State) (i : SlotId) (f : FieldId) (p : Phase) (u : State) : State :=
  { putReadBack u (s.fieldVal i f) f with
    trace := u.trace ++ [.rd (s.fieldAddr i f) (s.busAt (s.fieldAddr i f))], phase := p }

theorem recalcStep_of_readStep {s : State} {i : SlotId} {f : FieldId} {p : Phase}
    (hstep : (f, s.phase, p) ∈ readSteps) (ha : s.busOk (s.fieldAddr i f) = true) :
    s.recalcStep i = .next (readField s i f p s) := by
  simp only [readSteps, List.mem_cons, Prod.mk.injEq, List.not_mem_nil, or_false] at hstep
  obtain ⟨rfl, hp, rfl⟩ | ⟨rfl, hp, rfl⟩ | ⟨rfl, hp, rfl⟩ | ⟨rfl, hp, rfl⟩ | ⟨rfl, hp, rfl⟩ | ⟨rfl, hp, rfl⟩ :=
    hstep <;>
    · simp only [State.recalcStep, hp]
      exact State.readBack_eq_next.mpr ⟨ha, rfl⟩

/-- The read-back steps stand after the write steps in the program of `SET_RATE`. -/
theorem thirteen_le_rank_of_readStep : ∀ w ∈ readSteps, 13 ≤ w.2.1.rank := by decide

/-- From `RC_R_DACPD` on, `SET_RATE` and `RECALC_RATE` take the same steps (43_set_rate.md R106). -/
theorem exec_eq_recalcStep {s : State} {slot : BitVec 2} {i : SlotId} {c : Instr} (hs : SlotId.ofBits slot = some i)
    (hc : c ∈ [Instr.setRate slot, .recalcRate slot]) (hp : 13 ≤ s.phase.rank) : exec c s = s.recalcStep i := by
  simp only [List.mem_cons, List.not_mem_nil, or_false] at hc
  obtain rfl | rfl := hc
  · simp only [exec, execSetRate, hs]
    cases h : s.phase <;> simp [h, Phase.rank] at hp <;> rfl
  · simp only [exec, execRecalcRate, hs]
    cases h : s.phase <;> simp [h, Phase.rank] at hp <;> rfl

theorem exec_readStep {s : State} {slot : BitVec 2} {i : SlotId} {c : Instr} {f : FieldId} {p : Phase}
    (hs : SlotId.ofBits slot = some i) (hc : c ∈ [Instr.setRate slot, .recalcRate slot])
    (hstep : (f, s.phase, p) ∈ readSteps) (ha : s.busOk (s.fieldAddr i f) = true) :
    exec c s = .next (readField s i f p s) := by
  rw [exec_eq_recalcStep hs hc (thirteen_le_rank_of_readStep _ hstep), recalcStep_of_readStep hstep ha]

theorem exec_rcCompute {s : State} {slot : BitVec 2} {i : SlotId} {c : Instr} (hs : SlotId.ofBits slot = some i)
    (hc : c ∈ [Instr.setRate slot, .recalcRate slot]) (hp : s.phase = .rcCompute) : exec c s = .next s.rcCompute := by
  rw [exec_eq_recalcStep hs hc (by rw [hp]; decide)]
  simp only [State.recalcStep, hp]

/-- Settles O32: each listed step is one of `readSteps`. -/
theorem readBackStepsReadTheFields : Obligations.ReadBackStepsReadTheFields := by
  intro s slot i hs c hc got here
  have hread {f : FieldId} {p q : Phase} (hstep : (f, p, q) ∈ readSteps) (hhere : here f p) :
      exec c s = .next (readField s i f q s) := by
    obtain ⟨hp, halign, hrange⟩ := hhere
    exact exec_readStep hs hc (hp ▸ hstep) (State.busOk_iff.mpr ⟨halign, hrange⟩)
  exact ⟨hread (by decide), hread (by decide), hread (by decide), hread (by decide), hread (by decide),
    hread (by decide)⟩

/-- Settles O33, check by check. -/
theorem computeStepGivesTheTruncatedRational : Obligations.ComputeStepGivesTheTruncatedRational := by
  intro s slot i hs hp c hc frac num rate faults
  rw [exec_rcCompute hs hc hp]
  refine ⟨fun hmode => ?_, fun hmode hpre => ?_, fun hmode hpre hnum => ?_, fun hmode hpre hnum => ?_⟩
  · rw [rcCompute_of_mixed_modes hmode]; rfl
  · rw [rcCompute_of_zero_prediv hmode hpre]; rfl
  · rw [rcCompute_of_overflow hmode hpre hnum]; rfl
  · rw [rcCompute_of_fits hmode hpre hnum]; rfl

/-! ## The registers of a bound slot under a well-formed configuration (42_field_codec.md R78; 45_instance_create.md R134) -/

theorem variantLayout_wf {c : Config} (hc : Config.wf c = true) (v : Variant) :
    VariantLayout.wf (c.layout.get v) = true := by
  simp only [Config.wf, Bool.and_eq_true, List.all_eq_true] at hc
  obtain ⟨⟨⟨hlayouts, -⟩, -⟩, -⟩ := hc
  exact hlayouts v (Variant.mem_all v)

/-- R78 item 3. -/
theorem layout_off_mod_four {c : Config} (hc : Config.wf c = true) (v : Variant) (f : FieldId) :
    ((c.layout.get v).get f).off % 4 = 0 := by
  have hwf := variantLayout_wf hc v
  simp only [VariantLayout.wf, Bool.and_eq_true, List.all_eq_true] at hwf
  obtain ⟨hfields, -⟩ := hwf
  obtain ⟨-, hplaced⟩ := hfields f (FieldId.mem_all f)
  simp only [FieldLayout.placed, Bool.and_eq_true, beq_iff_eq] at hplaced
  obtain ⟨⟨-, hoff⟩, -⟩ := hplaced
  exact hoff

/-- R78 item 4. -/
theorem layout_apart {c : Config} (hc : Config.wf c = true) (v : Variant) {f g : FieldId} (hne : f ≠ g) :
    ((c.layout.get v).get f).off ≠ ((c.layout.get v).get g).off ∨
      fieldMask ((c.layout.get v).get f) &&& fieldMask ((c.layout.get v).get g) = 0 := by
  have hwf := variantLayout_wf hc v
  simp only [VariantLayout.wf, Bool.and_eq_true, List.all_eq_true] at hwf
  obtain ⟨-, happart⟩ := hwf
  simpa [hne, FieldLayout.apart] using happart f (FieldId.mem_all f) g (FieldId.mem_all g)

/-- An `RMW` of one field of a slot leaves the slot's other fields as they are: another register is at least four bytes
away, and in the same register the masks are disjoint. -/
theorem fieldVal_rmw_other {s : State} (hbus : s.bus.wf = true) (hc : Config.wf s.cfg = true) (i : SlotId)
    {f g : FieldId} (hne : g ≠ f) (x : Word) :
    (s.rmw (s.fieldAddr i f) (s.slotLayout i f) x).fieldVal i g = s.fieldVal i g := by
  have hregister : (s.rmw (s.fieldAddr i f) (s.slotLayout i f) x).fieldVal i g =
      extractField ((s.rmw (s.fieldAddr i f) (s.slotLayout i f) x).busAt (s.fieldAddr i g))
        (fieldMask (s.slotLayout i g)) (s.slotLayout i g).shift := rfl
  rw [hregister]
  by_cases hoff : (s.slotLayout i f).off = (s.slotLayout i g).off
  · have haddr : s.fieldAddr i g = s.fieldAddr i f := by rw [State.fieldAddr, State.fieldAddr, hoff]
    have hmask : fieldMask (s.slotLayout i f) &&& fieldMask (s.slotLayout i g) = 0 :=
      (layout_apart hc (s.slot i).variant hne.symm).resolve_left (not_not_intro hoff)
    rw [State.fieldVal, haddr, State.rmw_busAt_same hbus, extractField_insertField_apart _ _ hmask]
  · have hf : (s.slotLayout i f).off % 4 = 0 := layout_off_mod_four hc _ f
    have hg : (s.slotLayout i g).off % 4 = 0 := layout_off_mod_four hc _ g
    rw [State.fieldVal, State.rmw_busAt_apart]
    simp only [State.fieldAddr]
    omega

/-- Every field of a bound slot has a register the bus has. -/
theorem busOk_fieldAddr_of_valid {s : State} {i : SlotId} (hslots : s.slotsOk = true) (hc : Config.wf s.cfg = true)
    (hv : (s.slot i).valid = true) (f : FieldId) : s.busOk (s.fieldAddr i f) = true := by
  simp only [State.slotsOk, Bool.and_eq_true, List.all_eq_true] at hslots
  obtain ⟨hplaced, -⟩ := hslots
  have haddr := hplaced i (SlotId.mem_all i)
  simp only [State.slotPlaced, hv, Bool.not_true, Bool.false_or, Bool.and_eq_true, State.addrOk, beq_iff_eq,
    List.all_eq_true, decide_eq_true_eq] at haddr
  obtain ⟨⟨⟨⟨hbase, hrange⟩, -⟩, -⟩, -⟩ := haddr
  have hoff : (s.slotLayout i f).off % 4 = 0 := layout_off_mod_four hc _ f
  refine State.busOk_iff.mpr ⟨?_, hrange f (FieldId.mem_all f)⟩
  rw [State.fieldAddr]
  omega

/-! ## The run of a `RECALC_RATE` left alone (R113, R114) -/

/-- `u` is a state of the run, left alone, of a `RECALC_RATE` of slot `i` from `s`: the bus has the slot's registers, and
`u` sees them as `s` does. -/
structure RecalcRun (s : State) (slot : BitVec 2) (i : SlotId) (u : State) : Prop where
  alone : u.alone
  word  : decode u.latch.word = .ok (.recalcRate slot)
  slot  : SlotId.ofBits slot = some i
  onBus : ∀ f, s.busOk (s.fieldAddr i f) = true
  bus   : u.bus = s.bus
  slots : u.slots = s.slots
  cfg   : u.cfg = s.cfg

/-- The state after the `DECODE` step and the six reads: each working register holds its field's value. -/
def afterReads (s : State) (i : SlotId) : State :=
  { s with
    ref := s.latch.operandLo
    rbDacpd := (s.fieldVal i .dacpd).setWidth 1, rbDsmpd := (s.fieldVal i .dsmpd).setWidth 1
    rbPrediv := s.fieldVal i .prediv, rbFbdiv := s.fieldVal i .fbdiv, rbPostdiv := s.fieldVal i .postdiv
    rbFrac := s.fieldVal i .frac
    trace := s.trace ++ readOrder.map fun f => .rd (s.fieldAddr i f) (s.busAt (s.fieldAddr i f))
    phase := .rcCompute }

theorem seqEnabled_of_readStep {s : State} {f : FieldId} {p q : Phase} (hp : s.phase = p)
    (hstep : (f, p, q) ∈ readSteps) : s.seqEnabled = true := by
  have hrank : 13 ≤ p.rank := thirteen_le_rank_of_readStep _ hstep
  rw [State.seqEnabled, hp]
  cases p <;> simp [Phase.rank] at hrank <;> rfl

/-- One read-back step of the run, after which the run goes on. -/
theorem step_readField {s u : State} {slot : BitVec 2} {i : SlotId} (f : FieldId) (p q : Phase)
    (h : RecalcRun s slot i u) (hp : u.phase = p) (hstep : (f, p, q) ∈ readSteps) :
    step u = .next (readField s i f q u) ∧ RecalcRun s slot i (readField s i f q u) := by
  obtain ⟨halone, hword, hslot, honBus, hbus, hslots, hcfg⟩ := h
  have haddr : u.fieldAddr i f = s.fieldAddr i f := by
    simp only [State.fieldAddr, State.slotLayout, State.layoutOf, State.slot, hslots, hcfg]
  have hbusAt : u.busAt (s.fieldAddr i f) = s.busAt (s.fieldAddr i f) := by
    simp only [State.busAt, hbus, hcfg]
  have hval : u.fieldVal i f = s.fieldVal i f := by
    simp only [State.fieldVal, haddr, hbusAt, State.slotLayout, State.layoutOf, State.slot, hslots, hcfg]
  have hok : u.busOk (u.fieldAddr i f) = true := by
    rw [haddr, State.busOk, hcfg]
    exact honBus f
  constructor
  · rw [SetRate.step_alone_of_enabled halone (seqEnabled_of_readStep hp hstep) hword,
      exec_readStep hslot (by simp) (hp ▸ hstep) hok]
    simp only [readField, haddr, hbusAt, hval]
  · cases f <;> exact ⟨halone, hword, hslot, honBus, hbus, hslots, hcfg⟩

/-- The `DECODE` step of a bound slot takes the operand into `REF` (30_encoding.md R67). -/
theorem step_decode {s : State} {slot : BitVec 2} {i : SlotId} (h : RecalcRun s slot i s) (hp : s.phase = .decode)
    (hv : (s.slot i).valid = true) : step s = .next { s with ref := s.latch.operandLo, phase := .rcRDacpd } := by
  rw [SetRate.step_alone_of_enabled h.alone (by rw [State.seqEnabled, hp]) h.word]
  simp only [exec, execRecalcRate, h.slot, hp, State.decodeBound, hv, if_true]

/-- The six reads, one after another, are the reads of `readOrder`, each value in its working register. -/
theorem readField_all (s : State) (i : SlotId) :
    (readField s i .frac .rcCompute <| readField s i .postdiv .rcRFrac <| readField s i .fbdiv .rcRPostdiv <|
      readField s i .prediv .rcRFbdiv <| readField s i .dsmpd .rcRPrediv <| readField s i .dacpd .rcRDsmpd
      { s with ref := s.latch.operandLo, phase := .rcRDacpd }) = afterReads s i := by
  simp [readField, putReadBack, afterReads, readOrder]

/-- The run up to `RC_COMPUTE`: the `DECODE` step and the six reads. -/
theorem run_reads {s : State} {slot : BitVec 2} {i : SlotId} (h : RecalcRun s slot i s) (hp : s.phase = .decode)
    (hv : (s.slot i).valid = true) :
    Host.Core.run Sys2Proof.core 7 s = .next (afterReads s i) ∧ RecalcRun s slot i (afterReads s i) := by
  have hdecode := step_decode h hp hv
  obtain ⟨halone, hword, hslot, honBus, -, -, -⟩ := h
  have h0 : RecalcRun s slot i { s with ref := s.latch.operandLo, phase := .rcRDacpd } :=
    ⟨halone, hword, hslot, honBus, rfl, rfl, rfl⟩
  obtain ⟨hdacpd, h1⟩ := step_readField .dacpd .rcRDacpd .rcRDsmpd h0 rfl (by decide)
  obtain ⟨hdsmpd, h2⟩ := step_readField .dsmpd .rcRDsmpd .rcRPrediv h1 rfl (by decide)
  obtain ⟨hprediv, h3⟩ := step_readField .prediv .rcRPrediv .rcRFbdiv h2 rfl (by decide)
  obtain ⟨hfbdiv, h4⟩ := step_readField .fbdiv .rcRFbdiv .rcRPostdiv h3 rfl (by decide)
  obtain ⟨hpostdiv, h5⟩ := step_readField .postdiv .rcRPostdiv .rcRFrac h4 rfl (by decide)
  obtain ⟨hfrac, h6⟩ := step_readField .frac .rcRFrac .rcCompute h5 rfl (by decide)
  rw [readField_all] at hfrac h6
  refine ⟨?_, h6⟩
  rw [run_succ hdecode, run_succ hdacpd, run_succ hdsmpd, run_succ hprediv, run_succ hfbdiv, run_succ hpostdiv,
    run_succ hfrac, run_zero]

/-- The whole command, in eight steps. -/
theorem run_eight {s : State} {slot : BitVec 2} {i : SlotId} (h : RecalcRun s slot i s) (hp : s.phase = .decode)
    (hv : (s.slot i).valid = true) : Host.Core.run Sys2Proof.core 8 s = .next (afterReads s i).rcCompute := by
  obtain ⟨hrun, hreads⟩ := run_reads h hp hv
  have hcompute : step (afterReads s i) = .next (afterReads s i).rcCompute := by
    rw [SetRate.step_alone_of_enabled hreads.alone rfl hreads.word, exec_rcCompute hreads.slot (by simp) rfl]
  rw [run_add (j := 7) (k := 1) hrun, run_succ hcompute, run_zero]

theorem config_wf_of_inv {s : State} (hinv : s.Inv) (hchecked : s.cfgChecked = true) : Config.wf s.cfg = true := by
  have hcfg := hinv.cfg
  rwa [State.cfgOk, if_pos hchecked] at hcfg

theorem recalcRun_of_inv {s : State} {slot : BitVec 2} {i : SlotId} (hinv : s.Inv) (halone : s.alone)
    (hword : decode s.latch.word = .ok (.recalcRate slot)) (hslot : SlotId.ofBits slot = some i)
    (hv : (s.slot i).valid = true) : RecalcRun s slot i s :=
  ⟨halone, hword, hslot, busOk_fieldAddr_of_valid hinv.slots (config_wf_of_inv hinv halone.1) hv, rfl, rfl, rfl⟩

/-! ## Integer mode (R126) -/

/-- In integer mode `RC_COMPUTE` looks at neither the fraction read back, nor the bus, nor the trace. -/
theorem rcCompute_of_integer_mode {s : State} (hmode : s.rbDacpd ≠ 0) (frac : Word) (bus : Memory)
    (trace : List BusEvent) :
    ({ s with rbFrac := frac, bus := bus, trace := trace } : State).rcCompute =
      { s.rcCompute with rbFrac := frac, bus := bus, trace := trace } := by
  let u : State := { s with rbFrac := frac, bus := bus, trace := trace }
  have hfracc : u.fracc = s.fracc := (if_neg hmode).trans (if_neg hmode).symm
  have hu : u.rcCompute = { s.rcCompute with rbFrac := frac, bus := bus, trace := trace } := by
    by_cases hequal : s.rbDacpd = s.rbDsmpd
    · rw [rcCompute_of_equal_modes (s := u) hequal, rcCompute_of_equal_modes hequal, hfracc]
      split_ifs <;> rfl
    · rw [rcCompute_of_mixed_modes (s := u) hequal, rcCompute_of_mixed_modes hequal]
      rfl
  exact hu

/-- Two runs on slots whose other fields agree read the same into every working register but that of the fraction. -/
theorem afterReads_of_frac_changed {s : State} {i : SlotId} {bus : Memory}
    (hfields : ∀ f, f ≠ .frac → ({ s with bus := bus } : State).fieldVal i f = s.fieldVal i f) :
    afterReads { s with bus := bus } i =
      { afterReads s i with
        rbFrac := ({ s with bus := bus } : State).fieldVal i .frac
        bus := bus
        trace := (afterReads { s with bus := bus } i).trace } := by
  simp only [afterReads, hfields _ (by decide : FieldId.dacpd ≠ .frac), hfields _ (by decide : FieldId.dsmpd ≠ .frac),
    hfields _ (by decide : FieldId.prediv ≠ .frac), hfields _ (by decide : FieldId.fbdiv ≠ .frac),
    hfields _ (by decide : FieldId.postdiv ≠ .frac)]

/-- Settles O38: after the reads the two machines differ in the fraction, the bus and the trace only, and in integer mode
`RC_COMPUTE` looks at none of them. -/
theorem integerModeIgnoresTheFraction : Obligations.IntegerModeIgnoresTheFraction := by
  intro s slot i x hinv halone hp hword hslot hv hdacpd hdsmpd a l s'
  have hc := config_wf_of_inv hinv halone.1
  have hrun : RecalcRun s slot i s := recalcRun_of_inv hinv halone hword hslot hv
  have hrun' : RecalcRun s' slot i s' := ⟨halone, hword, hslot, hrun.onBus, rfl, rfl, rfl⟩
  have hfields : ∀ f, f ≠ .frac → s'.fieldVal i f = s.fieldVal i f := fun _ hne =>
    fieldVal_rmw_other hinv.bus hc i hne x
  have hmode : (afterReads s i).rbDacpd ≠ 0 := by
    have hone : (afterReads s i).rbDacpd = (s.fieldVal i .dacpd).setWidth 1 := rfl
    rw [hone, hdacpd]
    decide
  refine ⟨_, _, run_eight hrun hp hv, run_eight hrun' hp hv, ?_⟩
  rw [afterReads_of_frac_changed hfields, rcCompute_of_integer_mode hmode]
  exact ⟨rfl, rfl, rfl, rfl, rfl, rfl⟩

end Sys2Proof.RecalcRate
end

section
/-! PROOFS. 60_exceptions.md: a host write of `CMD` while `BUSY = 1` (R144), and what `HALTED` keeps until a reset (R143,
R147). -/

namespace Sys2Proof.Exceptions

open Sys2Proof.Machine

/-! ## Entering `HALTED` by a write of `CMD` (R144) -/

/-- In `HALTED` the sequencer has no step (R143). -/
theorem seqEnabled_of_halted {s : State} (hp : s.phase = .halted) : s.seqEnabled = false := by
  simp only [State.seqEnabled, hp]

/-- Settles O11: the host's step is `raise CMD_WHILE_BUSY`, which halts the block. -/
theorem commandWriteWhileBusyFaults : Obligations.CommandWriteWhileBusyFaults := by
  intro s w ms hc hs hb
  exact ⟨_, Encoding.step_cmd_busy hc hs hb, seqEnabled_of_halted rfl, rfl⟩

/-! ## What a step in `HALTED` keeps (R143, R147) -/

/-- The block halted by a fault, as `raise` leaves it (R143). -/
structure Halted (s : State) : Prop where
  phase : s.phase = .halted
  busy : s.busy = true
  faulted : s.faulted = true

/-- `t` agrees with `s` in all that R147 says `HALTED` keeps. -/
structure SameOutcome (s t : State) : Prop where
  phase : t.phase = s.phase
  busy : t.busy = s.busy
  faulted : t.faulted = s.faulted
  fcode : t.fcode = s.fcode
  fslot : t.fslot = s.fslot
  res0 : t.res0 = s.res0
  res1 : t.res1 = s.res1
  res2 : t.res2 = s.res2
  found : t.found = s.found
  code : t.code = s.code
  slots : t.slots = s.slots
  bus : t.bus = s.bus
  trace : t.trace = s.trace

theorem SameOutcome.refl (s : State) : SameOutcome s s := by constructor <;> rfl

theorem SameOutcome.trans {s t u : State} (h : SameOutcome s t) (h' : SameOutcome t u) : SameOutcome s u where
  phase := h'.phase.trans h.phase
  busy := h'.busy.trans h.busy
  faulted := h'.faulted.trans h.faulted
  fcode := h'.fcode.trans h.fcode
  fslot := h'.fslot.trans h.fslot
  res0 := h'.res0.trans h.res0
  res1 := h'.res1.trans h.res1
  res2 := h'.res2.trans h.res2
  found := h'.found.trans h.found
  code := h'.code.trans h.code
  slots := h'.slots.trans h.slots
  bus := h'.bus.trans h.bus
  trace := h'.trace.trans h.trace

/-- Faults do not nest (R147): in `HALTED` a further `raise` changes nothing. -/
theorem Halted.raise_eq {s : State} (hs : Halted s) (f : FaultCode) : s.raise f = s := by
  obtain ⟨hphase, hbusy, hfaulted⟩ := hs
  cases s
  cases hphase
  cases hbusy
  cases hfaulted
  rfl

/-- No host write of the interface reaches the outcome: one of `CMD` is a further fault, any other is at most an operand's
(10_state.md R20). -/
theorem Halted.sameOutcome_ifaceWrite {s : State} (hs : Halted s) (off : Nat) (v : Word) :
    SameOutcome s (s.ifaceWrite off v) := by
  rcases s.ifaceWrite_cases off v with ⟨-, hidle, -⟩ | ⟨-, -, heq⟩ | ⟨-, a0, a1, a2, a3, heq⟩
  · exact absurd hs.busy (ne_true_of_eq_false hidle)
  · rw [heq, hs.raise_eq]
    exact .refl s
  · rw [heq]
    constructor <;> rfl

/-- The host does not write the register bus while `BUSY = 1` (R151). -/
theorem Halted.mayBusWrite_eq_false {s : State} (hs : Halted s) (a : Nat) : s.mayBusWrite a = false := by
  simp [State.mayBusWrite, hs.busy]

/-- A passage of time is no step of the block (R153). -/
theorem SameOutcome.advance (s : State) (d n : Nat) : SameOutcome s { s.advance d with draws := n } := by
  constructor <;> rfl

theorem Halted.sameOutcome_autoStep {s t : State} (hs : Halted s) (h : s.autoStep = .next t) : SameOutcome s t := by
  have hoff := seqEnabled_of_halted hs.phase
  rcases State.autoStep_eq_next h with ⟨hon, -⟩ | ⟨-, d, -, -, rfl⟩
  · exact absurd hon (ne_true_of_eq_false hoff)
  · exact .advance s d _

theorem Halted.sameOutcome_othersStep {s t : State} (hs : Halted s) (h : s.othersStep = .next t) : SameOutcome s t := by
  have hoff := seqEnabled_of_halted hs.phase
  rcases State.othersStep_eq_next h with ⟨hon, -⟩ | ⟨-, d, -, -, rfl⟩ | ⟨-, rfl⟩
  · exact absurd hon (ne_true_of_eq_false hoff)
  · exact .advance s d _
  · exact .refl t

/-- Every scheduled move but a reset keeps the outcome. -/
theorem Halted.sameOutcome_runMove {s t : State} {m : Move} (hs : Halted s) (hm : m ≠ .reset) (h : s.runMove m = .next t) :
    SameOutcome s t := by
  have hoff := seqEnabled_of_halted hs.phase
  rcases runMove_cases h with ⟨-, ⟨hon, -⟩ | ⟨-, rfl⟩⟩ | ⟨off, v, -, -, rfl⟩ | ⟨off, -, -, rfl⟩ | ⟨a, v, -, hmay, -⟩ |
    ⟨-, rfl⟩ | ⟨-, hothers⟩ | ⟨d, -, -, rfl⟩ | ⟨hreset, -⟩
  · exact absurd hon (ne_true_of_eq_false hoff)
  · exact .refl t
  · exact hs.sameOutcome_ifaceWrite off v
  · constructor <;> rfl
  · exact absurd hmay (ne_true_of_eq_false (hs.mayBusWrite_eq_false a))
  · constructor <;> rfl
  · exact hs.sameOutcome_othersStep hothers
  · exact .advance s d _
  · exact absurd hreset hm

/-- Every step but a reset keeps the outcome. -/
theorem Halted.sameOutcome_step {s t : State} (hs : Halted s) (hm : s.schedule.head? ≠ some .reset)
    (h : step s = .next t) : SameOutcome s t := by
  rcases step_cases h with ⟨-, -, rfl⟩ | ⟨-, -, hauto⟩ | ⟨-, m, ms, hsched, hmove⟩
  · constructor <;> rfl
  · exact hs.sameOutcome_autoStep hauto
  · have hne : m ≠ .reset := fun hreset => hm (by rw [hsched, hreset]; rfl)
    have hs' : Halted { s with schedule := ms } := ⟨hs.phase, hs.busy, hs.faulted⟩
    have htaken : SameOutcome s { s with schedule := ms } := by constructor <;> rfl
    exact htaken.trans (hs'.sameOutcome_runMove hne hmove)

/-! ## The host's liberties in `HALTED` (R143) -/

theorem ifaceOk_iff {off : Nat} : ifaceOk off = true ↔ off % 4 = 0 ∧ off ≤ 0x3C := by
  simp [ifaceOk]

/-- A scheduled interface read at an offset the interface has is taken off the schedule and made. -/
theorem step_hostRead {s : State} {off : Nat} {ms : List Move} (hc : s.cfgChecked = true)
    (hs : s.schedule = .hostRead off :: ms) (hoff : ifaceOk off = true) :
    step s = .next { s with schedule := ms, hostData := s.ifaceRead off } := by
  rw [step_move hc hs]
  exact if_pos hoff

/-- Settles O12: what every step but a reset keeps of a halted block, and the host's accesses, which need no sequencer. -/
theorem haltedUntilReset : Obligations.HaltedUntilReset := by
  intro s hphase hbusy hfaulted hc
  have hs : Halted s := ⟨hphase, hbusy, hfaulted⟩
  refine ⟨seqEnabled_of_halted hphase, fun t hm h => ?_, fun off ms hread h4 hle => ?_, ?_, ?_, ?_, ?_⟩
  · have same := hs.sameOutcome_step hm h
    exact ⟨same.phase.trans hphase, same.busy.trans hbusy, same.faulted.trans hfaulted, same.fcode, same.fslot, same.res0,
      same.res1, same.res2, same.found, same.code, same.slots, same.bus, same.trace⟩
  · exact step_hostRead hc hread (ifaceOk_iff.mpr ⟨h4, hle⟩)
  all_goals
    intro v ms hwrite
    exact Encoding.step_hostWrite hc hwrite rfl

end Sys2Proof.Exceptions
end

section
/-! PROOFS. 70_reset_and_hazards.md R165, 43_set_rate.md R110: what one step, of any agent, can do to the register bus, and why
it moves no divider or mode field of a bound PLL that is not powered down. -/

namespace Sys2Proof.Hazards

open Sys2Proof.Machine

/-! ## What a step can do to the register bus (43_set_rate.md R108; 60_exceptions.md R151) -/

/-- The bus `b` that a step from `s` can leave: `s.bus` as it is, after the host's own write, or after the one `RMW` of the phase
that a `SET_RATE` of slot `j` is in. -/
inductive BusChange (s : State) (b : Memory) : Prop
  | kept (hbus : b = s.bus)
  | host (a : Nat) (v : Word) (hmay : s.mayBusWrite a = true) (hbus : b = (s.hostBusWrite a v).bus)
  | mux (j : SlotId) (sel : Word) (hslot : s.commandSlot true = some j) (hphase : s.phase = .srPreMux ∨ s.phase = .srPostMux)
      (hok : s.busOk (s.muxAddr j) = true) (hbus : b = (s.rmw (s.muxAddr j) s.cfg.auxMux sel).bus)
  | power (j : SlotId) (x : Word) (hslot : s.commandSlot true = some j) (hphase : s.phase = .srPdOn ∨ s.phase = .srPdOff)
      (hbus : b = (s.rmw (s.fieldAddr j .pd) (s.slotLayout j .pd) x).bus)
  | write (j : SlotId) (g : FieldId) (p : Phase) (e : RateEntry) (hslot : s.commandSlot true = some j)
      (hstep : (g, s.phase, p) ∈ writeSteps) (hentry : s.entry j = some e)
      (hbus : b = (s.rmw (s.fieldAddr j g) (s.slotLayout j g) (entryValue e g)).bus)

/-- What a step from `s` to `t` does to the bus and the parameters. -/
structure BusEffect (s t : State) : Prop where
  cfg : t.cfg = s.cfg
  change : BusChange s t.bus

theorem BusEffect.of_kept {s t : State} (hcfg : t.cfg = s.cfg) (hbus : t.bus = s.bus) : BusEffect s t :=
  ⟨hcfg, .kept hbus⟩

/-- The moves still asked for play no part in it. -/
theorem BusEffect.of_schedule {s t : State} {ms : List Move} (h : BusEffect { s with schedule := ms } t) : BusEffect s t := by
  obtain ⟨hcfg, hchange⟩ := h
  refine ⟨hcfg, ?_⟩
  cases hchange with
  | kept hbus => exact .kept hbus
  | host a v hmay hbus => exact .host a v hmay hbus
  | mux j sel hslot hphase hok hbus => exact .mux j sel hslot hphase hok hbus
  | power j x hslot hphase hbus => exact .power j x hslot hphase hbus
  | write j g p e hslot hstep hentry hbus => exact .write j g p e hslot hstep hentry hbus

/-! ### The sequencer's step -/

theorem createEffect_busEffect (i : SlotId) (var : BitVec 2) (auxp : Bool) (s : State) :
    BusEffect s (createEffect i var auxp s) := by
  rcases createEffect_cases i var auxp s with
    ⟨-, heq⟩ | ⟨v, -, ⟨-, heq⟩ | ⟨-, -, heq⟩ | ⟨-, -, -, heq⟩ | ⟨-, -, -, heq⟩⟩ <;>
    · rw [heq]
      exact .of_kept rfl rfl

/-- A command without bus access keeps the bus (10_state.md R27). -/
theorem codecStep_busEffect {s t : State} (h : codecStep s t) : BusEffect s t := by
  rcases h with ⟨-, rfl⟩ | ⟨-, c, r0, r1, r2, fd, rfl⟩ | ⟨-, rfl⟩ <;> exact .of_kept rfl rfl

theorem illegal_busEffect {s t : State} (h : s.illegal = .next t) : BusEffect s t := by
  obtain ⟨-, rfl⟩ := State.illegal_eq_next.1 h
  exact .of_kept rfl rfl

theorem decodeBound_busEffect {s n : State} (i : SlotId) (hn : BusEffect s n) : BusEffect s (s.decodeBound i n) := by
  rcases s.decodeBound_cases i n with ⟨-, heq⟩ | ⟨-, heq⟩ <;> rw [heq]
  · exact hn
  · exact .of_kept rfl rfl

theorem srLookup_busEffect (s : State) (i : SlotId) : BusEffect s (s.srLookup i) := by
  rcases s.srLookup_cases i with ⟨-, heq⟩ | ⟨n, -, ⟨-, -, heq⟩ | ⟨-, -, heq⟩ | ⟨-, heq⟩⟩ <;>
    · rw [heq]
      exact .of_kept rfl rfl

theorem rcCompute_busEffect (s : State) : BusEffect s s.rcCompute := by
  rcases s.rcCompute_cases with ⟨-, heq⟩ | ⟨-, ⟨-, heq⟩ | ⟨-, -, heq⟩ | ⟨-, -, rate, -, heq⟩⟩ <;>
    · rw [heq]
      exact .of_kept rfl rfl

/-- The recalc phases only read (44_recalc_rate.md R114). -/
theorem recalcStep_busEffect {s t : State} {i : SlotId} (h : s.recalcStep i = .next t) : BusEffect s t := by
  rcases State.recalcStep_eq_next h with ⟨-, -, rfl⟩ | ⟨-, -, rfl⟩ | ⟨-, -, rfl⟩ | ⟨-, -, rfl⟩ | ⟨-, -, rfl⟩ | ⟨-, -, rfl⟩ |
    ⟨-, rfl⟩
  case inr.inr.inr.inr.inr.inr => exact rcCompute_busEffect s
  all_goals exact .of_kept rfl rfl

theorem commandSlot_of_setRate {s : State} {slot : BitVec 2} {i : SlotId} (hd : decode s.latch.word = .ok (.setRate slot))
    (hs : SlotId.ofBits slot = some i) : s.commandSlot true = some i := by
  simp [State.commandSlot, State.command, hd, hs]

/-- `SET_RATE` writes its mux, its `PD` and its fields, each in its own phase, and nothing else (43_set_rate.md R108). -/
theorem execSetRate_busEffect {s t : State} {slot : BitVec 2} (hd : decode s.latch.word = .ok (.setRate slot))
    (h : execSetRate slot s = .next t) : BusEffect s t := by
  cases hs : SlotId.ofBits slot with
  | none => exact illegal_busEffect (execSetRate_reserved hs ▸ h)
  | some i =>
    have hslot := commandSlot_of_setRate hd hs
    rcases execSetRate_eq_next hs h with ⟨-, rfl⟩ | ⟨-, rfl⟩ | ⟨hp, hok, rfl⟩ | ⟨hp, -, rfl⟩ | ⟨g, e, p, hstep, he, -, rfl⟩ |
      ⟨hp, -, -, rfl⟩ | ⟨hp, -, -, rfl⟩ | ⟨-, -, rfl⟩ | ⟨-, -, rfl⟩ | ⟨hp, hok, rfl⟩ | ⟨-, hrecalc⟩
    · exact decodeBound_busEffect i (.of_kept rfl rfl)
    · exact srLookup_busEffect s i
    · exact ⟨rfl, .mux i _ hslot (.inl hp) hok rfl⟩
    · exact ⟨rfl, .power i _ hslot (.inl hp) rfl⟩
    · exact ⟨rfl, .write i g p e hslot hstep he rfl⟩
    · exact ⟨rfl, .power i _ hslot (.inr hp) rfl⟩
    · exact ⟨rfl, .power i _ hslot (.inr hp) rfl⟩
    · exact .of_kept rfl rfl
    · exact .of_kept rfl rfl
    · exact ⟨rfl, .mux i _ hslot (.inr hp) hok rfl⟩
    · exact recalcStep_busEffect hrecalc

theorem execRecalcRate_busEffect {s t : State} {slot : BitVec 2} (h : execRecalcRate slot s = .next t) : BusEffect s t := by
  cases hs : SlotId.ofBits slot with
  | none => exact illegal_busEffect (execRecalcRate_reserved hs ▸ h)
  | some i =>
    rcases execRecalcRate_eq_next hs h with ⟨-, rfl⟩ | ⟨-, hrecalc⟩
    · exact decodeBound_busEffect i (.of_kept rfl rfl)
    · exact recalcStep_busEffect hrecalc

theorem execCreate_busEffect {s t : State} {slot var : BitVec 2} {auxp : Bool} (h : execCreate slot var auxp s = .next t) :
    BusEffect s t := by
  rcases execCreate_eq_next h with ⟨-, -, rfl⟩ | ⟨i, -, ⟨-, rfl⟩ | ⟨-, rfl⟩⟩
  · exact .of_kept rfl rfl
  · exact .of_kept rfl rfl
  · exact createEffect_busEffect i var auxp s

theorem seqStep_busEffect {s t : State} (h : s.seqStep = .next t) : BusEffect s t := by
  rcases State.seqStep_eq_next h with ⟨-, -, rfl⟩ | ⟨c, hd, hexec⟩
  · exact .of_kept rfl rfl
  · cases c with
    | create slot var auxp => exact execCreate_busEffect hexec
    | findRate var => exact codecStep_busEffect (execFindRate_eq_next hexec)
    | fieldLayout var fld => exact codecStep_busEffect (execFieldLayout_eq_next hexec)
    | fieldExtract var fld => exact codecStep_busEffect (execFieldExtract_eq_next hexec)
    | fieldInsert var fld => exact codecStep_busEffect (execFieldInsert_eq_next hexec)
    | setRate slot => exact execSetRate_busEffect hd hexec
    | recalcRate slot => exact execRecalcRate_busEffect hexec

/-! ### The step of any agent -/

theorem autoStep_busEffect {s t : State} (h : s.autoStep = .next t) : BusEffect s t := by
  rcases State.autoStep_eq_next h with ⟨-, hseq⟩ | ⟨-, d, -, -, rfl⟩
  · exact seqStep_busEffect hseq
  · exact .of_kept rfl rfl

theorem othersStep_busEffect {s t : State} (h : s.othersStep = .next t) : BusEffect s t := by
  rcases State.othersStep_eq_next h with ⟨-, hseq⟩ | ⟨-, d, -, -, rfl⟩ | ⟨-, rfl⟩
  · exact seqStep_busEffect hseq
  · exact .of_kept rfl rfl
  · exact .of_kept rfl rfl

/-- A host write of the interface does not reach the bus (10_state.md R19). -/
theorem ifaceWrite_busEffect (s : State) (off : Nat) (v : Word) : BusEffect s (s.ifaceWrite off v) := by
  rcases s.ifaceWrite_cases off v with ⟨-, -, heq⟩ | ⟨-, -, heq⟩ | ⟨-, a0, a1, a2, a3, heq⟩ <;>
    · rw [heq]
      exact .of_kept rfl rfl

theorem runMove_busEffect {s t : State} {m : Move} (h : s.runMove m = .next t) : BusEffect s t := by
  rcases runMove_cases h with ⟨-, ⟨-, hseq⟩ | ⟨-, rfl⟩⟩ | ⟨off, v, -, -, rfl⟩ | ⟨off, -, -, rfl⟩ | ⟨a, v, -, hmay, rfl⟩ |
    ⟨-, rfl⟩ | ⟨-, hothers⟩ | ⟨d, -, -, rfl⟩ | ⟨-, rfl⟩
  · exact seqStep_busEffect hseq
  · exact .of_kept rfl rfl
  · exact ifaceWrite_busEffect s off v
  · exact .of_kept rfl rfl
  · exact ⟨rfl, .host a v hmay rfl⟩
  · exact .of_kept rfl rfl
  · exact othersStep_busEffect hothers
  · exact .of_kept rfl rfl
  · exact .of_kept rfl rfl

/-- The step of whichever agent moves does one of these to the bus. -/
theorem step_busEffect {s t : State} (h : step s = .next t) : BusEffect s t := by
  rcases step_cases h with ⟨-, -, rfl⟩ | ⟨-, -, hauto⟩ | ⟨-, m, ms, -, hmove⟩
  · exact .of_kept rfl rfl
  · exact autoStep_busEffect hauto
  · exact (runMove_busEffect hmove).of_schedule

/-- The check of the parameters is no bus access (70_reset_and_hazards.md R162). -/
theorem cfgChecked_of_bus_ne {s t : State} (h : step s = .next t) (hne : t.bus ≠ s.bus) : s.cfgChecked = true := by
  rcases step_cases h with ⟨-, -, rfl⟩ | ⟨hc, -⟩ | ⟨hc, -⟩
  · exact absurd rfl hne
  · exact hc
  · exact hc

/-! ## The registers of bound slots do not meet (45_instance_create.md R134, R135) -/

theorem not_mem_of_meets_eq_false {xs ys : List Nat} (h : meets xs ys = false) {x : Nat} (hx : x ∈ xs) : x ∉ ys := by
  intro hy
  have hmeets : meets xs ys = true := by
    simp only [meets, List.any_eq_true, beq_iff_eq]
    exact ⟨x, hx, x, hy, rfl⟩
  rw [h] at hmeets
  cases hmeets

theorem fieldAddr_mem_regAddrs (s : State) (i : SlotId) (f : FieldId) :
    s.fieldAddr i f ∈ s.regAddrs (s.slot i).variant (s.slot i).base :=
  List.mem_map.mpr ⟨f, FieldId.mem_all f, rfl⟩

theorem muxAddr_mem_muxAddrs {s : State} {i : SlotId} (haux : (s.slot i).auxp = true) :
    s.muxAddr i ∈ s.muxAddrs (s.slot i).auxp (s.slot i).aux := by
  simp [State.muxAddrs, haux, State.muxAddr]

section
variable {s : State} {i j : SlotId} (hslots : s.slotsOk = true) (hi : (s.slot i).valid = true)
  (hj : (s.slot j).valid = true)
include hslots hi hj

theorem meets_eq_false_of_ne (hne : i ≠ j) :
    meets (s.regAddrs (s.slot i).variant (s.slot i).base) (s.regAddrs (s.slot j).variant (s.slot j).base) = false ∧
      meets (s.regAddrs (s.slot i).variant (s.slot i).base) (s.muxAddrs (s.slot j).auxp (s.slot j).aux) = false := by
  simp only [State.slotsOk, Bool.and_eq_true, List.all_eq_true] at hslots
  obtain ⟨-, hapart⟩ := hslots
  have hij := hapart i (SlotId.mem_all i) j (SlotId.mem_all j)
  simp only [State.slotsApart, hi, hj, beq_eq_false_iff_ne.mpr hne, Bool.not_true, Bool.false_or, Bool.and_eq_true,
    Bool.not_eq_true'] at hij
  obtain ⟨⟨-, hregs⟩, hmux⟩ := hij
  exact ⟨hregs, hmux⟩

/-- No register of one bound PLL is a register of another. -/
theorem fieldAddr_ne_fieldAddr (hne : i ≠ j) (f g : FieldId) : s.fieldAddr i f ≠ s.fieldAddr j g := by
  obtain ⟨hregs, -⟩ := meets_eq_false_of_ne hslots hi hj hne
  intro heq
  exact not_mem_of_meets_eq_false hregs (fieldAddr_mem_regAddrs s i f) (heq ▸ fieldAddr_mem_regAddrs s j g)

/-- No register of a bound PLL is a mux register of a bound slot, be it its own or another's. -/
theorem fieldAddr_ne_muxAddr (haux : (s.slot j).auxp = true) (f : FieldId) : s.fieldAddr i f ≠ s.muxAddr j := by
  have hmux := muxAddr_mem_muxAddrs haux
  have hreg := fieldAddr_mem_regAddrs s i f
  intro heq
  by_cases hne : i = j
  · subst hne
    simp only [State.slotsOk, Bool.and_eq_true, List.all_eq_true] at hslots
    obtain ⟨hplaced, -⟩ := hslots
    have howned := hplaced i (SlotId.mem_all i)
    simp only [State.slotPlaced, hi, Bool.not_true, Bool.false_or, Bool.and_eq_true, Bool.not_eq_true'] at howned
    obtain ⟨⟨-, hown⟩, -⟩ := howned
    exact not_mem_of_meets_eq_false hown hmux (heq ▸ hreg)
  · obtain ⟨-, hother⟩ := meets_eq_false_of_ne hslots hi hj hne
    exact not_mem_of_meets_eq_false hother hreg (heq ▸ hmux)

end

theorem busOk_of_mayBusWrite {s : State} {a : Nat} (hmay : s.mayBusWrite a = true) : s.busOk a = true := by
  simp only [State.mayBusWrite, Bool.and_eq_true] at hmay
  obtain ⟨⟨-, hok⟩, -⟩ := hmay
  exact hok

/-- The host may write no register of a bound PLL (60_exceptions.md R151). -/
theorem fieldAddr_ne_of_mayBusWrite {s : State} {i : SlotId} {a : Nat} (hmay : s.mayBusWrite a = true)
    (hv : (s.slot i).valid = true) (f : FieldId) : s.fieldAddr i f ≠ a := by
  simp only [State.mayBusWrite, Bool.and_eq_true, State.notPllReg, List.all_eq_true] at hmay
  obtain ⟨-, hnot⟩ := hmay
  have hi := hnot i (SlotId.mem_all i)
  simp only [hv, Bool.true_and, Bool.not_eq_true', List.contains_eq_mem, decide_eq_false_iff_not] at hi
  exact fun heq => hi (heq ▸ fieldAddr_mem_regAddrs s i f)

/-! ## Where a `SET_RATE` stands in a phase that writes (43_set_rate.md R91, R110) -/

/-- After the lookup a `SET_RATE` works on a bound slot, which has an aux block if it is of variant B. -/
theorem setRateOn_of_phase {s : State} {j : SlotId} (hphase : s.phaseOk = true) (hslot : s.commandSlot true = some j)
    (hrank : 2 ≤ s.phase.rank) : s.setRateOn j = true := by
  cases hp : s.phase
  case idle | decode | exec | halted | srLookup => simp [hp, Phase.rank] at hrank
  case srPreMux | srDelay | srPostMux =>
    simp only [State.phaseOk, hp, hslot, Bool.and_eq_true] at hphase
    obtain ⟨hon, -⟩ := hphase
    exact hon
  all_goals simpa only [State.phaseOk, hp, hslot] using hphase

theorem variant_eq_b_of_mux_phase {s : State} {j : SlotId} (hphase : s.phaseOk = true) (hslot : s.commandSlot true = some j)
    (hp : s.phase = .srPreMux ∨ s.phase = .srPostMux) : (s.slot j).variant = .b := by
  rcases hp with hp | hp <;>
    · simp only [State.phaseOk, hp, hslot, Bool.and_eq_true, beq_iff_eq] at hphase
      exact hphase.2

theorem valid_of_setRateOn {s : State} {j : SlotId} (h : s.setRateOn j = true) : (s.slot j).valid = true := by
  simp only [State.setRateOn, Bool.and_eq_true] at h
  obtain ⟨⟨hv, -⟩, -⟩ := h
  exact hv

theorem auxp_of_setRateOn {s : State} {j : SlotId} (h : s.setRateOn j = true) (hb : (s.slot j).variant = .b) :
    (s.slot j).auxp = true := by
  simp only [State.setRateOn, Bool.and_eq_true, hb] at h
  obtain ⟨⟨-, haux⟩, -⟩ := h
  simpa using haux

/-- `PD` is 1 from after its assertion to its de-assertion (R110). -/
theorem pd_eq_one_of_rank {s : State} {j : SlotId} {e : RateEntry} (hprog : s.progressOk = true)
    (hslot : s.commandSlot true = some j) (he : s.entry j = some e) (hlo : 4 ≤ s.phase.rank) (hhi : s.phase.rank ≤ 10) :
    s.fieldVal j .pd = 1 := by
  have hlate : ¬ s.phase.rank ≤ 1 := by omega
  simp only [State.progressOk, hslot, he, decide_eq_false hlate, Bool.false_or, State.setRateProgress, hlo, hhi,
    decide_true, Bool.and_self, Bool.not_true, Bool.and_eq_true, beq_iff_eq] at hprog
  obtain ⟨⟨⟨⟨hpd, -⟩, -⟩, -⟩, -⟩ := hprog
  exact hpd

theorem rank_of_writeStep : ∀ w ∈ writeSteps, 4 ≤ w.2.1.rank ∧ w.2.1.rank ≤ 10 := by decide

/-! ## What a change of the bus leaves in the fields -/

/-- Two registers at different aligned addresses share no byte (20_memory.md R42). -/
theorem apart_of_ne {a b : Nat} (ha : a % 4 = 0) (hb : b % 4 = 0) (hne : b ≠ a) : b + 4 ≤ a ∨ a + 4 ≤ b := by omega

/-- A field as `t` holds it is the field of `s` with the bus of `t`, when the parameters are the same. -/
theorem extractField_busAt_eq_fieldVal {s t : State} (hcfg : t.cfg = s.cfg) (i : SlotId) (f : FieldId) :
    extractField (t.busAt (s.fieldAddr i f)) (fieldMask (s.slotLayout i f)) (s.slotLayout i f).shift =
      ({ s with bus := t.bus } : State).fieldVal i f := by
  rw [State.busAt, hcfg]
  rfl

section
variable {s : State} {i : SlotId} (hinv : s.Inv) (hc : Config.wf s.cfg = true) (hv : (s.slot i).valid = true)
include hinv hc hv

/-- A write of any other register leaves the field. -/
theorem fieldVal_writeWord_of_ne {f : FieldId} {a : Nat} (hok : s.busOk a = true) (hne : s.fieldAddr i f ≠ a) (w : Word) :
    ({ s with bus := s.bus.writeWord s.cfg.busEndian a w } : State).fieldVal i f = s.fieldVal i f := by
  obtain ⟨hreg, -⟩ := State.busOk_iff.1 (RecalcRate.busOk_fieldAddr_of_valid hinv.slots hc hv f)
  obtain ⟨ha, -⟩ := State.busOk_iff.1 hok
  have hword := Memory.readWord_writeWord_apart s.bus s.cfg.busEndian w (apart_of_ne ha hreg hne)
  exact congrArg (extractField · (fieldMask (s.slotLayout i f)) (s.slotLayout i f).shift) hword

/-- An `RMW` of another field leaves the field, whether the other field is the same PLL's or another's. -/
theorem fieldVal_rmw_of_ne {j : SlotId} {f g : FieldId} (hj : (s.slot j).valid = true) (hne : ¬ (i = j ∧ f = g)) (x : Word) :
    (s.rmw (s.fieldAddr j g) (s.slotLayout j g) x).fieldVal i f = s.fieldVal i f := by
  by_cases hij : i = j
  · subst hij
    exact RecalcRate.fieldVal_rmw_other hinv.bus hc i (fun hfg => hne ⟨rfl, hfg⟩) x
  · exact fieldVal_writeWord_of_ne hinv hc hv (RecalcRate.busOk_fieldAddr_of_valid hinv.slots hc hj g)
      (fieldAddr_ne_fieldAddr hinv.slots hv hj hij f g) _

/-- Whatever a step does to the bus, a divider or mode field of a bound PLL keeps its value, or `PD` is 1. -/
theorem BusChange.fieldVal_eq_or_pd_eq_one {b : Memory} {f : FieldId} (hprog : s.progressOk = true) (hf : f ≠ .pd)
    (h : BusChange s b) :
    ({ s with bus := b } : State).fieldVal i f = s.fieldVal i f ∨ s.fieldVal i .pd = 1 := by
  cases h with
  | kept hbus =>
    subst hbus
    exact .inl rfl
  | host a v hmay hbus =>
    subst hbus
    exact .inl (fieldVal_writeWord_of_ne hinv hc hv (busOk_of_mayBusWrite hmay) (fieldAddr_ne_of_mayBusWrite hmay hv f) v)
  | mux j sel hslot hphase hok hbus =>
    subst hbus
    have hon := setRateOn_of_phase hinv.phase hslot (by rcases hphase with hp | hp <;> simp [hp, Phase.rank])
    have haux := auxp_of_setRateOn hon (variant_eq_b_of_mux_phase hinv.phase hslot hphase)
    exact .inl (fieldVal_writeWord_of_ne hinv hc hv hok
      (fieldAddr_ne_muxAddr hinv.slots hv (valid_of_setRateOn hon) haux f) _)
  | power j x hslot hphase hbus =>
    subst hbus
    have hon := setRateOn_of_phase hinv.phase hslot (by rcases hphase with hp | hp <;> simp [hp, Phase.rank])
    exact .inl (fieldVal_rmw_of_ne hinv hc hv (valid_of_setRateOn hon) (fun hsame => hf hsame.2) x)
  | write j g p e hslot hstep hentry hbus =>
    subst hbus
    obtain ⟨hlo, hhi⟩ := rank_of_writeStep _ hstep
    by_cases hij : i = j
    · subst hij
      exact .inr (pd_eq_one_of_rank hprog hslot hentry hlo hhi)
    · have hon := setRateOn_of_phase hinv.phase hslot (Nat.le_trans (by decide) hlo)
      exact .inl (fieldVal_rmw_of_ne hinv hc hv (valid_of_setRateOn hon) (fun hsame => hij hsame.1) _)

end

/-- Settles O51: a step that changes the field changes the bus, so it is made with the parameters checked, and of the changes a
step can make only a write of `SET_RATE` reaches such a field; while those last, `PD` is 1. -/
theorem dividersMoveOnlyUnderPowerDown : Obligations.DividersMoveOnlyUnderPowerDown := by
  intro s t i f hinv hprog hstep hv hf hmoved
  obtain ⟨hcfg, hchange⟩ := step_busEffect hstep
  rw [extractField_busAt_eq_fieldVal hcfg] at hmoved
  have hne : t.bus ≠ s.bus := fun hbus => hmoved (by rw [hbus])
  have hc := RecalcRate.config_wf_of_inv hinv (cfgChecked_of_bus_ne hstep hne)
  exact (hchange.fieldVal_eq_or_pd_eq_one hinv hc hv hprog hf).resolve_left hmoved

end Sys2Proof.Hazards
end

section
/-! PROOFS. 30_encoding.md: the encoder and the decoder are inverse to each other (R59, R61), and the words R69 lists are the
ones the decoder refuses. -/

namespace Sys2Proof.Encoding

open Sys2Proof.Machine

/-! ## The fields of a word as numbers (R59) -/

section
variable (w : Word)

theorem cmdOpc_toNat : (cmdOpc w).toNat = w.toNat % 16 := by
  simp [cmdOpc, BitVec.extractLsb'_toNat]

theorem cmdSlot_toNat : (cmdSlot w).toNat = w.toNat / 16 % 4 := by
  simp [cmdSlot, BitVec.extractLsb'_toNat, Nat.shiftRight_eq_div_pow]

theorem cmdVar_toNat : (cmdVar w).toNat = w.toNat / 64 % 4 := by
  simp [cmdVar, BitVec.extractLsb'_toNat, Nat.shiftRight_eq_div_pow]

theorem cmdFld_toNat : (cmdFld w).toNat = w.toNat / 256 % 8 := by
  simp [cmdFld, BitVec.extractLsb'_toNat, Nat.shiftRight_eq_div_pow]

theorem cmdAuxp_iff : cmdAuxp w = true ↔ w.toNat / 2048 % 2 ≠ 0 := by
  simp [cmdAuxp, BitVec.getLsbD, Nat.testBit_eq_decide_div_mod_eq]

theorem cmdRsv_toNat : (cmdRsv w).toNat = w.toNat / 4096 := by
  have := w.isLt
  simp only [cmdRsv, BitVec.extractLsb'_toNat, Nat.shiftRight_eq_div_pow]
  omega

end

theorem toNat_append_eq_add {m n : Nat} (x : BitVec m) (y : BitVec n) : (x ++ y).toNat = 2 ^ n * x.toNat + y.toNat := by
  rw [BitVec.toNat_append, ← Nat.shiftLeft_add_eq_or_of_lt y.isLt, Nat.shiftLeft_eq, Nat.mul_comm]

section
variable (opc : BitVec 4) (slot var : BitVec 2) (fld : BitVec 3) (auxp : Bool)

/-- The number of a command word: each field at its place. -/
theorem cmdWord_toNat : (cmdWord opc slot var fld auxp).toNat =
    opc.toNat + 16 * slot.toNat + 64 * var.toNat + 256 * fld.toNat + 2048 * auxp.toNat := by
  have hslot := toNat_append_eq_add slot opc
  have hvar := toNat_append_eq_add var (slot ++ opc)
  have hfld := toNat_append_eq_add fld (var ++ (slot ++ opc))
  have hauxp := toNat_append_eq_add (BitVec.ofBool auxp) (fld ++ (var ++ (slot ++ opc)))
  have hword : (cmdWord opc slot var fld auxp).toNat =
      2 ^ (1 + (3 + (2 + (2 + 4)))) * (0#20).toNat + (BitVec.ofBool auxp ++ (fld ++ (var ++ (slot ++ opc)))).toNat :=
    toNat_append_eq_add (0#20) (BitVec.ofBool auxp ++ (fld ++ (var ++ (slot ++ opc))))
  rw [BitVec.toNat_ofBool] at hauxp
  simp only [BitVec.toNat_ofNat] at hword
  omega

/-! The fields of the word made of six fields. -/

@[simp] theorem cmdOpc_cmdWord : cmdOpc (cmdWord opc slot var fld auxp) = opc := by
  apply BitVec.eq_of_toNat_eq
  rw [cmdOpc_toNat, cmdWord_toNat]
  omega

@[simp] theorem cmdSlot_cmdWord : cmdSlot (cmdWord opc slot var fld auxp) = slot := by
  apply BitVec.eq_of_toNat_eq
  rw [cmdSlot_toNat, cmdWord_toNat]
  omega

@[simp] theorem cmdVar_cmdWord : cmdVar (cmdWord opc slot var fld auxp) = var := by
  apply BitVec.eq_of_toNat_eq
  rw [cmdVar_toNat, cmdWord_toNat]
  omega

@[simp] theorem cmdFld_cmdWord : cmdFld (cmdWord opc slot var fld auxp) = fld := by
  apply BitVec.eq_of_toNat_eq
  rw [cmdFld_toNat, cmdWord_toNat]
  omega

@[simp] theorem cmdAuxp_cmdWord : cmdAuxp (cmdWord opc slot var fld auxp) = auxp := by
  rw [Bool.eq_iff_iff, cmdAuxp_iff, cmdWord_toNat]
  cases auxp <;> simp only [Bool.toNat_true, Bool.toNat_false, Bool.false_eq_true, iff_false, iff_true] <;> omega

@[simp] theorem cmdRsv_cmdWord : cmdRsv (cmdWord opc slot var fld auxp) = 0 := by
  have hauxp := Bool.toNat_le auxp
  apply BitVec.eq_of_toNat_eq
  rw [cmdRsv_toNat, cmdWord_toNat]
  exact Nat.div_eq_of_lt (by omega)

end

/-! ## The two round trips (R59, R61, R63) -/

/-- The word of a well-formed command has its operands in their fields and 0 in the others, so each opcode's branch of the
decoder gives the command back. -/
theorem decode_encode {i : Instr} (hwf : i.wf = true) : decode (encode i) = .ok i := by
  cases i with
  | create slot var auxp =>
    have hslot : slot ≠ 3 := bne_iff_ne.mp hwf
    simpa [encode] using decode_create (w := encode (.create slot var auxp)) (by simp [encode]) (by simp [encode])
      (by simp [encode]) (by simpa [encode] using hslot)
  | findRate var =>
    simpa [encode] using decode_findRate (w := encode (.findRate var)) (by simp [encode]) (by simp [encode])
      (by simp [encode]) (by simp [encode]) (by simp [encode])
  | fieldLayout var fld =>
    have hfld : fld ≠ 7 := bne_iff_ne.mp hwf
    rw [decode_fieldLayout (by simp [encode]) (by simp [encode]), decodeCodec_eq_ok_iff]
    simpa [encode] using hfld
  | fieldExtract var fld =>
    have hfld : fld ≠ 7 := bne_iff_ne.mp hwf
    rw [decode_fieldExtract (by simp [encode]) (by simp [encode]), decodeCodec_eq_ok_iff]
    simpa [encode] using hfld
  | fieldInsert var fld =>
    have hfld : fld ≠ 7 := bne_iff_ne.mp hwf
    rw [decode_fieldInsert (by simp [encode]) (by simp [encode]), decodeCodec_eq_ok_iff]
    simpa [encode] using hfld
  | setRate slot =>
    have hslot : slot ≠ 3 := bne_iff_ne.mp hwf
    rw [decode_setRate (by simp [encode]) (by simp [encode]), decodeSlotOnly_eq_ok_iff]
    simpa [encode] using hslot
  | recalcRate slot =>
    have hslot : slot ≠ 3 := bne_iff_ne.mp hwf
    rw [decode_recalcRate (by simp [encode]) (by simp [encode]), decodeSlotOnly_eq_ok_iff]
    simpa [encode] using hslot

/-- Settles O1, by the fields of the encoded word, opcode by opcode. -/
theorem decodeOfEncodeGivesTheCommand : Obligations.DecodeOfEncodeGivesTheCommand :=
  fun _ hwf => decode_encode hwf

/-- Settles O2: every branch of the decoder that answers has checked the fields the encoder sets. -/
theorem decodedWordEncodesBack : Obligations.DecodedWordEncodesBack :=
  fun _ _ h => encode_of_decode h

/-- Settles O5: the legal samples are the words of their commands, and the two others break an extra condition of R63. -/
theorem sampleWordsDecode : Obligations.SampleWordsDecode :=
  ⟨decode_encode (i := .create 1 1 true) rfl, decode_encode (i := .create 0 3 false) rfl,
    decode_encode (i := .findRate 2) rfl, decode_encode (i := .fieldLayout 0 4) rfl,
    decode_encode (i := .fieldInsert 0 3) rfl, decode_encode (i := .setRate 2) rfl,
    decode_encode (i := .recalcRate 2) rfl, rfl, rfl⟩

/-! ## The words the decoder refuses (R69) -/

theorem decodeCodec_refuses_iff {w : Word} {mk : BitVec 2 → BitVec 3 → Instr} :
    (∃ e, decodeCodec w mk = .error e) ↔ cmdSlot w ≠ 0 ∨ cmdAuxp w = true ∨ cmdFld w = 7 := by
  unfold decodeCodec
  split_ifs <;> simp <;> grind

theorem decodeSlotOnly_refuses_iff {w : Word} {mk : BitVec 2 → Instr} :
    (∃ e, decodeSlotOnly w mk = .error e) ↔ cmdVar w ≠ 0 ∨ cmdFld w ≠ 0 ∨ cmdAuxp w = true ∨ cmdSlot w = 3 := by
  unfold decodeSlotOnly
  split_ifs <;> simp <;> grind

/-- Settles O4: in every branch of the decoder, its conditions on the fields put as numbers are what the rule lists for the
opcode. -/
theorem illegalWordsAreTheListedOnes : Obligations.IllegalWordsAreTheListedOnes := by
  intro w opc slot var fld auxp rsv
  have hopc : (cmdOpc w).toNat = opc := cmdOpc_toNat w
  have hslot : (cmdSlot w).toNat = slot := cmdSlot_toNat w
  have hvar : (cmdVar w).toNat = var := cmdVar_toNat w
  have hfld : (cmdFld w).toNat = fld := cmdFld_toNat w
  have hauxp : cmdAuxp w = true ↔ auxp ≠ 0 := cmdAuxp_iff w
  have hrsv : (cmdRsv w).toNat = rsv := cmdRsv_toNat w
  clear_value opc slot var fld auxp rsv
  unfold decode
  split_ifs <;>
    simp only [decodeCodec_refuses_iff, decodeSlotOnly_refuses_iff, exists_false, Except.error.injEq,
      exists_eq', true_iff, false_iff, ← BitVec.toNat_inj, ne_eq, hopc, hslot, hvar, hfld, hauxp, hrsv,
      BitVec.reduceToNat, BitVec.ofNat_eq_ofNat] at * <;>
    omega

end Sys2Proof.Encoding
end

section
/-! PROOFS. What one step can do, said once for every later proof: the effect of a step of each command, and the effect of a
step of the machine, agent by agent (10_state.md R17, R27; 30_encoding.md R67). -/

namespace Sys2Proof.Effects

open Sys2Proof.Machine

/-! ## The step of a command -/

/-- The phases in which a command can finish or, besides `DECODE`, raise a fault. -/
def endPhases : Instr → List Phase
  | .setRate _    => [.srLookup, .rcCompute]
  | .recalcRate _ => [.rcCompute]
  | _             => [.exec]

/-- The states that a step of a command can leave from `s`. -/
inductive CmdEffect (s : State) : Instr → State → Prop
  | raise (c : Instr) (f : FaultCode) (hp : s.phase = .decode ∨ s.phase ∈ endPhases c) : CmdEffect s c (s.raise f)
  | finish (c : Instr) (st : StatusCode) (r0 r1 r2 : Word) (fd : Bool) (hp : s.phase ∈ endPhases c) :
      CmdEffect s c (s.finish st r0 r1 r2 fd)
  | toExec (c : Instr) (hc : endPhases c = [.exec]) (hp : s.phase = .decode) : CmdEffect s c { s with phase := .exec }
  | bind {slot : BitVec 2} {i : SlotId} (var : BitVec 2) (auxp : Bool) (v : Variant) (hs : SlotId.ofBits slot = some i)
      (hp : s.phase = .exec) (hfree : (s.slot i).valid = false)
      (haddr : s.addrOk v s.latch.operandLo auxp s.latch.operandHi = true)
      (halias : s.aliases i v s.latch.operandLo auxp s.latch.operandHi = false) :
      CmdEffect s (.create slot var auxp) ((s.bind i v s.latch.operandLo auxp s.latch.operandHi).finish .ok 0 0 0 false)
  | toLookup {slot : BitVec 2} {i : SlotId} (hs : SlotId.ofBits slot = some i) (hp : s.phase = .decode)
      (hv : (s.slot i).valid = true) : CmdEffect s (.setRate slot) { s with phase := .srLookup }
  | lookup {slot : BitVec 2} {i : SlotId} (n : Nat) (hs : SlotId.ofBits slot = some i) (hp : s.phase = .srLookup)
      (hn : findRate (s.slotTable i) s.latch.operandLo = some n)
      (haux : (s.slot i).variant = .b → (s.slot i).auxp = true) :
      CmdEffect s (.setRate slot) { s with
        idx := BitVec.ofNat 4 n, phase := if (s.slot i).variant = .b then .srPreMux else .srPdOn }
  | preMux {slot : BitVec 2} {i : SlotId} (hs : SlotId.ofBits slot = some i) (hp : s.phase = .srPreMux)
      (hok : s.busOk (s.muxAddr i) = true) :
      CmdEffect s (.setRate slot) { s.rmw (s.muxAddr i) s.cfg.auxMux s.cfg.selRefDiv2 with phase := .srPdOn }
  | pdOn {slot : BitVec 2} {i : SlotId} (hs : SlotId.ofBits slot = some i) (hp : s.phase = .srPdOn)
      (hok : s.busOk (s.fieldAddr i .pd) = true) :
      CmdEffect s (.setRate slot) { s.rmw (s.fieldAddr i .pd) (s.slotLayout i .pd) 1 with phase := .srWDacpd }
  | write {slot : BitVec 2} {i : SlotId} {f : FieldId} {p : Phase} {e : RateEntry} (hs : SlotId.ofBits slot = some i)
      (hstep : (f, s.phase, p) ∈ writeSteps) (he : s.entry i = some e) (hok : s.busOk (s.fieldAddr i f) = true) :
      CmdEffect s (.setRate slot) { s.rmw (s.fieldAddr i f) (s.slotLayout i f) (entryValue e f) with phase := p }
  | pdOffToDelay {slot : BitVec 2} {i : SlotId} (hs : SlotId.ofBits slot = some i) (hp : s.phase = .srPdOff)
      (hok : s.busOk (s.fieldAddr i .pd) = true) (hb : (s.slot i).variant = .b) :
      CmdEffect s (.setRate slot)
        { s.rmw (s.fieldAddr i .pd) (s.slotLayout i .pd) 0 with t0 := s.nowUs, phase := .srDelay }
  | pdOffToRead {slot : BitVec 2} {i : SlotId} (hs : SlotId.ofBits slot = some i) (hp : s.phase = .srPdOff)
      (hok : s.busOk (s.fieldAddr i .pd) = true) (hb : (s.slot i).variant ≠ .b) :
      CmdEffect s (.setRate slot)
        { s.rmw (s.fieldAddr i .pd) (s.slotLayout i .pd) 0 with ref := s.cfg.parentRate.get i, phase := .rcRDacpd }
  | delay {slot : BitVec 2} {i : SlotId} (hs : SlotId.ofBits slot = some i) (hp : s.phase = .srDelay)
      (hsettled : s.settled = true) :
      CmdEffect s (.setRate slot) { s with phase := .srPostMux }
  | spin {slot : BitVec 2} (hp : s.phase = .srDelay) (hsettled : s.settled = false) : CmdEffect s (.setRate slot) s
  | postMux {slot : BitVec 2} {i : SlotId} (hs : SlotId.ofBits slot = some i) (hp : s.phase = .srPostMux)
      (hok : s.busOk (s.muxAddr i) = true) :
      CmdEffect s (.setRate slot) { s.rmw (s.muxAddr i) s.cfg.auxMux s.cfg.selPllDiv2 with
        ref := s.cfg.parentRate.get i, phase := .rcRDacpd }
  | toRead {slot : BitVec 2} {i : SlotId} (hs : SlotId.ofBits slot = some i) (hp : s.phase = .decode)
      (hv : (s.slot i).valid = true) :
      CmdEffect s (.recalcRate slot) { s with ref := s.latch.operandLo, phase := .rcRDacpd }
  | read {slot : BitVec 2} {i : SlotId} {c : Instr} {f : FieldId} {p : Phase} (hs : SlotId.ofBits slot = some i)
      (hc : c ∈ [Instr.setRate slot, .recalcRate slot]) (hstep : (f, s.phase, p) ∈ RecalcRate.readSteps)
      (hok : s.busOk (s.fieldAddr i f) = true) : CmdEffect s c (RecalcRate.readField s i f p s)

section
variable {s t : State}

theorem effect_of_illegal (c : Instr) (h : s.illegal = .next t) : CmdEffect s c t := by
  obtain ⟨hp, rfl⟩ := State.illegal_eq_next.1 h
  exact .raise c _ (.inl hp)

theorem effect_of_codecStep {c : Instr} (hc : endPhases c = [.exec]) (h : codecStep s t) : CmdEffect s c t := by
  rcases h with ⟨hp, rfl⟩ | ⟨hp, st, r0, r1, r2, fd, rfl⟩ | ⟨hp, rfl⟩
  · exact .toExec c hc hp
  · exact .finish c st r0 r1 r2 fd (by simp [hc, hp])
  · exact .raise c _ (.inl hp)

theorem effect_of_create {slot var : BitVec 2} {auxp : Bool} (h : execCreate slot var auxp s = .next t) :
    CmdEffect s (.create slot var auxp) t := by
  rcases execCreate_eq_next h with ⟨-, hp, rfl⟩ | ⟨i, hs, ⟨hp, rfl⟩ | ⟨hp, rfl⟩⟩
  · exact .raise _ _ (.inl hp)
  · exact .toExec _ rfl hp
  · have hend : s.phase ∈ endPhases (.create slot var auxp) := by simp [endPhases, hp]
    rcases createEffect_cases i var auxp s with ⟨-, heq⟩ | ⟨v, -, ⟨-, heq⟩ | ⟨-, -, heq⟩ | ⟨-, -, -, heq⟩ |
      ⟨hfree, haddr, halias, heq⟩⟩ <;> rw [heq]
    · exact .finish _ _ _ _ _ _ hend
    · exact .raise _ _ (.inr hend)
    · exact .raise _ _ (.inr hend)
    · exact .raise _ _ (.inr hend)
    · exact .bind var auxp v hs hp hfree haddr halias

theorem effect_of_rcCompute {c : Instr} (hp : s.phase ∈ endPhases c) : CmdEffect s c s.rcCompute := by
  rcases s.rcCompute_cases with ⟨-, heq⟩ | ⟨-, ⟨-, heq⟩ | ⟨-, -, heq⟩ | ⟨-, -, rate, -, heq⟩⟩ <;> rw [heq]
  · exact .finish _ _ _ _ _ _ hp
  · exact .raise _ _ (.inr hp)
  · exact .raise _ _ (.inr hp)
  · exact .finish _ _ _ _ _ _ hp

/-- The recalc phases that `SET_RATE` and `RECALC_RATE` share (43_set_rate.md R106). -/
theorem effect_of_recalcStep {slot : BitVec 2} {i : SlotId} {c : Instr} (hs : SlotId.ofBits slot = some i)
    (hc : c ∈ [Instr.setRate slot, .recalcRate slot]) (h : s.recalcStep i = .next t) : CmdEffect s c t := by
  rcases State.recalcStep_eq_next h with ⟨hp, hok, rfl⟩ | ⟨hp, hok, rfl⟩ | ⟨hp, hok, rfl⟩ | ⟨hp, hok, rfl⟩ |
    ⟨hp, hok, rfl⟩ | ⟨hp, hok, rfl⟩ | ⟨hp, rfl⟩
  · exact .read hs hc (f := .dacpd) (by rw [hp]; decide) hok
  · exact .read hs hc (f := .dsmpd) (by rw [hp]; decide) hok
  · exact .read hs hc (f := .prediv) (by rw [hp]; decide) hok
  · exact .read hs hc (f := .fbdiv) (by rw [hp]; decide) hok
  · exact .read hs hc (f := .postdiv) (by rw [hp]; decide) hok
  · exact .read hs hc (f := .frac) (by rw [hp]; decide) hok
  · refine effect_of_rcCompute ?_
    simp only [List.mem_cons, List.not_mem_nil, or_false] at hc
    rcases hc with rfl | rfl <;> simp [endPhases, hp]

theorem effect_of_srLookup {slot : BitVec 2} {i : SlotId} (hs : SlotId.ofBits slot = some i) (hp : s.phase = .srLookup) :
    CmdEffect s (.setRate slot) (s.srLookup i) := by
  have hend : s.phase ∈ endPhases (.setRate slot) := by simp [endPhases, hp]
  rcases s.srLookup_cases i with ⟨-, heq⟩ | ⟨n, hn, ⟨-, -, heq⟩ | ⟨hb, haux, heq⟩ | ⟨hb, heq⟩⟩ <;> rw [heq]
  · exact .finish _ _ _ _ _ _ hend
  · exact .raise _ _ (.inr hend)
  · simpa only [hb, if_true] using CmdEffect.lookup n hs hp hn fun _ => haux
  · simpa only [hb, if_false] using CmdEffect.lookup n hs hp hn fun hb' => absurd hb' hb

theorem effect_of_setRate {slot : BitVec 2} (h : execSetRate slot s = .next t) : CmdEffect s (.setRate slot) t := by
  cases hs : SlotId.ofBits slot with
  | none => exact effect_of_illegal _ (execSetRate_reserved hs ▸ h)
  | some i =>
    rcases execSetRate_eq_next hs h with ⟨hp, rfl⟩ | ⟨hp, rfl⟩ | ⟨hp, hok, rfl⟩ | ⟨hp, hok, rfl⟩ |
      ⟨f, e, p, hstep, he, hok, rfl⟩ | ⟨hp, hok, hb, rfl⟩ | ⟨hp, hok, hb, rfl⟩ | ⟨hp, hsettled, rfl⟩ | ⟨hp, hsettled, rfl⟩ |
      ⟨hp, hok, rfl⟩ | ⟨-, hrecalc⟩
    · rcases s.decodeBound_cases i { s with phase := .srLookup } with ⟨hv, heq⟩ | ⟨-, heq⟩ <;> rw [heq]
      · exact .toLookup hs hp hv
      · exact .raise _ _ (.inl hp)
    · exact effect_of_srLookup hs hp
    · exact .preMux hs hp hok
    · exact .pdOn hs hp hok
    · exact .write hs hstep he hok
    · exact .pdOffToDelay hs hp hok hb
    · exact .pdOffToRead hs hp hok hb
    · exact .delay hs hp hsettled
    · exact .spin hp hsettled
    · exact .postMux hs hp hok
    · exact effect_of_recalcStep hs (by simp) hrecalc

theorem effect_of_recalcRate {slot : BitVec 2} (h : execRecalcRate slot s = .next t) :
    CmdEffect s (.recalcRate slot) t := by
  cases hs : SlotId.ofBits slot with
  | none => exact effect_of_illegal _ (execRecalcRate_reserved hs ▸ h)
  | some i =>
    rcases execRecalcRate_eq_next hs h with ⟨hp, rfl⟩ | ⟨-, hrecalc⟩
    · rcases s.decodeBound_cases i { s with ref := s.latch.operandLo, phase := .rcRDacpd } with ⟨hv, heq⟩ | ⟨-, heq⟩ <;>
        rw [heq]
      · exact .toRead hs hp hv
      · exact .raise _ _ (.inl hp)
    · exact effect_of_recalcStep hs (by simp) hrecalc

/-- THE STEP OF A COMMAND: a next state that `exec` answers is one of these. -/
theorem effect_of_exec {c : Instr} (h : exec c s = .next t) : CmdEffect s c t := by
  cases c with
  | create slot var auxp => exact effect_of_create h
  | findRate var => exact effect_of_codecStep rfl (execFindRate_eq_next h)
  | fieldLayout var fld => exact effect_of_codecStep rfl (execFieldLayout_eq_next h)
  | fieldExtract var fld => exact effect_of_codecStep rfl (execFieldExtract_eq_next h)
  | fieldInsert var fld => exact effect_of_codecStep rfl (execFieldInsert_eq_next h)
  | setRate slot => exact effect_of_setRate h
  | recalcRate slot => exact effect_of_recalcRate h

end

/-! ## The step of the machine -/

/-- The states that a step of the machine can leave from `s`, agent by agent; `ms` are the moves still asked for then. -/
inductive StepEffect (s : State) : State → Prop
  | config (hc : s.cfgChecked = false) (hwf : Config.wf s.cfg = true) : StepEffect s { s with cfgChecked := true }
  | command {t : State} (ms : List Move) {c : Instr} (hc : s.cfgChecked = true) (hen : s.seqEnabled = true)
      (hd : decode s.latch.word = .ok c) (h : CmdEffect { s with schedule := ms } c t) : StepEffect s t
  | illegal (ms : List Move) (hc : s.cfgChecked = true) (hp : s.phase = .decode)
      (hd : ∃ e, decode s.latch.word = .error e) : StepEffect s (State.raise { s with schedule := ms } .illegalCommand)
  | time (ms : List Move) (d n : Nat) (hc : s.cfgChecked = true) (hd : 1 ≤ d) (hroom : s.nowUs.toNat + d < 2 ^ 64) :
      StepEffect s { s.advance d with draws := n, schedule := ms }
  | look (ms : List Move) (w : Word) (hc : s.cfgChecked = true) : StepEffect s { s with hostData := w, schedule := ms }
  | accept (w : Word) (ms : List Move) (hc : s.cfgChecked = true) (hsched : s.schedule = .hostWrite 0x00 w :: ms)
      (hb : s.busy = false) : StepEffect s (State.accept { s with schedule := ms } w)
  | whileBusy (w : Word) (ms : List Move) (hc : s.cfgChecked = true) (hsched : s.schedule = .hostWrite 0x00 w :: ms)
      (hb : s.busy = true) : StepEffect s (State.raise { s with schedule := ms } .cmdWhileBusy)
  | args (off : Nat) (v : Word) (ms : List Move) (a0 a1 a2 a3 : Word) (hc : s.cfgChecked = true)
      (hsched : s.schedule = .hostWrite off v :: ms)
      (heq : State.ifaceWrite { s with schedule := ms } off v =
        { s with schedule := ms, arg0 := a0, arg1 := a1, arg2 := a2, arg3 := a3 }) :
      StepEffect s { s with schedule := ms, arg0 := a0, arg1 := a1, arg2 := a2, arg3 := a3 }
  | busWrite (a : Nat) (v : Word) (ms : List Move) (hc : s.cfgChecked = true) (hsched : s.schedule = .busWrite a v :: ms)
      (hmay : s.mayBusWrite a = true) : StepEffect s (State.hostBusWrite { s with schedule := ms } a v)
  | reset (ms : List Move) (hc : s.cfgChecked = true) (hsched : s.schedule = .reset :: ms) :
      StepEffect s (State.resetBlock { s with schedule := ms })

section
variable {s t : State} {ms : List Move} (hc : s.cfgChecked = true)
include hc

theorem effect_of_seqStep (hen : s.seqEnabled = true) (h : State.seqStep { s with schedule := ms } = .next t) :
    StepEffect s t := by
  rcases State.seqStep_eq_next h with ⟨hd, hp, rfl⟩ | ⟨c, hd, hexec⟩
  · exact .illegal ms hc hp hd
  · exact .command ms hc hen hd (effect_of_exec hexec)

theorem effect_of_autoStep (h : s.autoStep = .next t) : StepEffect s t := by
  rcases State.autoStep_eq_next h with ⟨hen, hseq⟩ | ⟨-, d, hd, hroom, rfl⟩
  · exact effect_of_seqStep hc hen hseq
  · exact .time s.schedule d _ hc hd hroom

theorem effect_of_othersStep (h : State.othersStep { s with schedule := ms } = .next t) : StepEffect s t := by
  rcases State.othersStep_eq_next h with ⟨hen, hseq⟩ | ⟨-, d, hd, hroom, rfl⟩ | ⟨-, rfl⟩
  · exact effect_of_seqStep hc hen hseq
  · exact .time ms d _ hc hd hroom
  · exact .look ms s.hostData hc

theorem effect_of_hostWrite {off : Nat} {v : Word} (hsched : s.schedule = .hostWrite off v :: ms) :
    StepEffect s (State.ifaceWrite { s with schedule := ms } off v) := by
  rcases State.ifaceWrite_cases { s with schedule := ms } off v with ⟨rfl, hb, heq⟩ | ⟨rfl, hb, heq⟩ |
    ⟨-, a0, a1, a2, a3, heq⟩ <;> rw [heq]
  · exact .accept v ms hc hsched hb
  · exact .whileBusy v ms hc hsched hb
  · exact .args off v ms a0 a1 a2 a3 hc hsched heq

theorem effect_of_runMove {m : Move} (hsched : s.schedule = m :: ms)
    (h : State.runMove { s with schedule := ms } m = .next t) : StepEffect s t := by
  rcases runMove_cases h with ⟨-, ⟨hen, hseq⟩ | ⟨-, rfl⟩⟩ | ⟨off, v, rfl, -, rfl⟩ | ⟨off, -, -, rfl⟩ |
    ⟨a, v, rfl, hmay, rfl⟩ | ⟨-, rfl⟩ | ⟨-, hothers⟩ | ⟨d, -, hcan, rfl⟩ | ⟨rfl, rfl⟩
  · exact effect_of_seqStep hc hen hseq
  · exact .look ms s.hostData hc
  · exact effect_of_hostWrite hc hsched
  · exact .look ms _ hc
  · exact .busWrite a v ms hc hsched hmay
  · exact .look _ s.statusWord hc
  · exact effect_of_othersStep hc hothers
  · simp only [State.canAdvance, Bool.and_eq_true, decide_eq_true_eq] at hcan
    exact .time ms d s.draws hc hcan.1 hcan.2
  · exact .reset ms hc hsched

end

/-- THE STEP OF THE MACHINE: a next state that it answers is one of these. -/
theorem effect_of_step {s t : State} (h : step s = .next t) : StepEffect s t := by
  rcases step_cases h with ⟨hc, hwf, rfl⟩ | ⟨hc, -, hauto⟩ | ⟨hc, m, ms, hsched, hmove⟩
  · exact .config hc hwf
  · exact effect_of_autoStep hc hauto
  · exact effect_of_runMove hc hsched hmove

end Sys2Proof.Effects
end

section
/-! PROOFS. Frames: what a step of a command leaves unchanged, and what no agent's step changes (10_state.md R20, R25, R31, R36;
60_exceptions.md R145; 70_reset_and_hazards.md R162). -/

namespace Sys2Proof.Effects

open Sys2Proof.Machine

/-! ## The frame of a command's step -/

/-- The phases in which a command writes `REF`. -/
def refPhases : Instr → List Phase
  | .setRate _    => [.srPdOff, .srPostMux]
  | .recalcRate _ => [.decode]
  | _             => []

/-- The slots after a step of command `c`: as before, but for the one that `CREATE` binds (10_state.md R25). -/
def SlotsFrame (s : State) (c : Instr) (t : State) : Prop :=
  t.slots = s.slots ∨ (s.phase = .exec ∧ t.phase = .idle ∧
    ∃ slot var auxp i x, c = .create slot var auxp ∧ SlotId.ofBits slot = some i ∧ t.slots = s.slots.set i x)

/-- What a step of command `c` from `s` to `t` leaves unchanged. A field that the step does not mention is unchanged by `rfl`. -/
structure CmdFrame (s : State) (c : Instr) (t : State) : Prop where
  arg0 : t.arg0 = s.arg0 := by rfl
  arg1 : t.arg1 = s.arg1 := by rfl
  arg2 : t.arg2 = s.arg2 := by rfl
  arg3 : t.arg3 = s.arg3 := by rfl
  latch : t.latch = s.latch := by rfl
  nowUs : t.nowUs = s.nowUs := by rfl
  cfg : t.cfg = s.cfg := by rfl
  cfgChecked : t.cfgChecked = s.cfgChecked := by rfl
  schedule : t.schedule = s.schedule := by rfl
  draws : t.draws = s.draws := by rfl
  hostData : t.hostData = s.hostData := by rfl
  slots : SlotsFrame s c t := by exact .inl rfl
  trace : s.trace <+: t.trace := by exact List.prefix_rfl
  fault : t.phase ≠ .halted → t.fcode = s.fcode ∧ t.fslot = s.fslot ∧ t.faulted = s.faulted := by
    exact fun _ => ⟨rfl, rfl, rfl⟩
  firstFault : s.faulted = true → t.faulted = true ∧ t.fcode = s.fcode ∧ t.fslot = s.fslot := by
    exact fun h => ⟨h, rfl, rfl⟩
  result : s.phase ∉ endPhases c →
      t.code = s.code ∧ t.found = s.found ∧ t.res0 = s.res0 ∧ t.res1 = s.res1 ∧ t.res2 = s.res2 := by
    exact fun _ => ⟨rfl, rfl, rfl, rfl, rfl⟩
  idx : s.phase ≠ .srLookup → t.idx = s.idx := by exact fun _ => rfl
  t0 : s.phase ≠ .srPdOff → t.t0 = s.t0 := by exact fun _ => rfl
  ref : s.phase ∉ refPhases c → t.ref = s.ref := by exact fun _ => rfl
  rbDacpd : s.phase ≠ .rcRDacpd → t.rbDacpd = s.rbDacpd := by exact fun _ => rfl
  rbDsmpd : s.phase ≠ .rcRDsmpd → t.rbDsmpd = s.rbDsmpd := by exact fun _ => rfl
  rbPrediv : s.phase ≠ .rcRPrediv → t.rbPrediv = s.rbPrediv := by exact fun _ => rfl
  rbFbdiv : s.phase ≠ .rcRFbdiv → t.rbFbdiv = s.rbFbdiv := by exact fun _ => rfl
  rbPostdiv : s.phase ≠ .rcRPostdiv → t.rbPostdiv = s.rbPostdiv := by exact fun _ => rfl
  rbFrac : s.phase ≠ .rcRFrac → t.rbFrac = s.rbFrac := by exact fun _ => rfl

/-- The first fault is kept by a further one (60_exceptions.md R143, R145). -/
theorem raise_of_faulted {s : State} (f : FaultCode) (h : s.faulted = true) :
    (s.raise f).faulted = true ∧ (s.raise f).fcode = s.fcode ∧ (s.raise f).fslot = s.fslot :=
  ⟨rfl, if_pos h, if_pos h⟩

theorem trace_prefix_rmw (s : State) (a : Nat) (l : FieldLayout) (x : Word) : s.trace <+: (s.rmw a l x).trace := by
  rw [State.rmw_trace, List.append_assoc]
  exact List.prefix_append _ _

theorem CmdFrame.readField {s : State} {c : Instr} {i : SlotId} {f : FieldId} {p : Phase}
    (hstep : (f, s.phase, p) ∈ RecalcRate.readSteps) : CmdFrame s c (RecalcRate.readField s i f p s) := by
  have htrace : s.trace <+: (RecalcRate.readField s i f p s).trace := List.prefix_append _ _
  simp only [RecalcRate.readSteps, List.mem_cons, Prod.mk.injEq, List.not_mem_nil, or_false] at hstep
  obtain ⟨rfl, hp, rfl⟩ | ⟨rfl, hp, rfl⟩ | ⟨rfl, hp, rfl⟩ | ⟨rfl, hp, rfl⟩ | ⟨rfl, hp, rfl⟩ | ⟨rfl, hp, rfl⟩ := hstep
  · exact { trace := htrace, rbDacpd := fun h => absurd hp h }
  · exact { trace := htrace, rbDsmpd := fun h => absurd hp h }
  · exact { trace := htrace, rbPrediv := fun h => absurd hp h }
  · exact { trace := htrace, rbFbdiv := fun h => absurd hp h }
  · exact { trace := htrace, rbPostdiv := fun h => absurd hp h }
  · exact { trace := htrace, rbFrac := fun h => absurd hp h }

theorem CmdEffect.frame {s t : State} {c : Instr} (h : CmdEffect s c t) : CmdFrame s c t := by
  cases h with
  | raise _ f hp => exact { fault := fun h => absurd rfl h, firstFault := raise_of_faulted f }
  | finish _ st r0 r1 r2 fd hp => exact { result := fun h => absurd hp h }
  | toExec _ hc hp => exact {}
  | bind var auxp v hs hp hfree haddr halias =>
    exact {
      slots := .inr ⟨hp, rfl, _, _, _, _, _, rfl, hs, rfl⟩
      result := fun h => absurd (by simp [endPhases, hp]) h }
  | toLookup hs hp hv => exact {}
  | lookup n hs hp hn haux =>
    exact { idx := fun h => absurd hp h }
  | preMux hs hp hok => exact { trace := trace_prefix_rmw ..}
  | pdOn hs hp hok => exact { trace := trace_prefix_rmw .. }
  | write hs hstep he hok => exact { trace := trace_prefix_rmw .. }
  | pdOffToDelay hs hp hok hb => exact { trace := trace_prefix_rmw .., t0 := fun h => absurd hp h }
  | pdOffToRead hs hp hok hb =>
    exact { trace := trace_prefix_rmw .., ref := fun h => absurd (by simp [refPhases, hp]) h }
  | delay hs hp hsettled => exact {}
  | spin hp hsettled => exact {}
  | postMux hs hp hok => exact { trace := trace_prefix_rmw .., ref := fun h => absurd (by simp [refPhases, hp]) h }
  | toRead hs hp hv => exact { ref := fun h => absurd (by simp [refPhases, hp]) h }
  | read hs hc hstep hok => exact .readField hstep

/-! ## The bus of a command's step -/

theorem readField_bus (s : State) (i : SlotId) (f : FieldId) (p : Phase) (u : State) :
    (RecalcRate.readField s i f p u).bus = u.bus := by
  cases f <;> rfl

/-- Of the commands only `SET_RATE` changes the bus (43_set_rate.md R108; 44_recalc_rate.md R114). -/
theorem CmdEffect.bus_eq {s t : State} {c : Instr} (h : CmdEffect s c t) (hc : ∀ slot, c ≠ .setRate slot) :
    t.bus = s.bus := by
  cases h with
  | raise | finish | toExec | bind | toRead => rfl
  | read => exact readField_bus ..
  | toLookup | lookup | preMux | pdOn | write | pdOffToDelay | pdOffToRead | delay | spin | postMux =>
    exact absurd rfl (hc _)

/-- A command that ends in `EXEC` steps in `DECODE` and in `EXEC` only, and makes no bus access (10_state.md R27). -/
theorem CmdEffect.of_lookup {s t : State} {c : Instr} (h : CmdEffect s c t) (hc : endPhases c = [.exec]) :
    (s.phase = .decode ∨ s.phase = .exec) ∧ t.trace = s.trace := by
  cases h with
  | raise _ f hp => exact ⟨hp.imp_right fun hp => by simpa [hc] using hp, rfl⟩
  | finish _ st r0 r1 r2 fd hp => exact ⟨.inr (by simpa [hc] using hp), rfl⟩
  | toExec _ _ hp => exact ⟨.inl hp, rfl⟩
  | bind var auxp v hs hp => exact ⟨.inr hp, rfl⟩
  | read hs hmem =>
    simp only [List.mem_cons, List.not_mem_nil, or_false] at hmem
    rcases hmem with rfl | rfl <;> cases hc
  | toLookup | lookup | preMux | pdOn | write | pdOffToDelay | pdOffToRead | delay | spin | postMux | toRead => cases hc

/-- `RECALC_RATE` steps in `DECODE` and in the recalc phases only (44_recalc_rate.md R113). -/
theorem CmdEffect.phase_of_recalcRate {s t : State} {slot : BitVec 2} (h : CmdEffect s (.recalcRate slot) t) :
    s.phase = .decode ∨ 13 ≤ s.phase.rank := by
  have hend : s.phase ∈ endPhases (.recalcRate slot) → 13 ≤ s.phase.rank := fun hp => by
    rw [List.mem_singleton.mp hp]
    decide
  cases h with
  | raise _ f hp => exact hp.imp_right hend
  | finish _ st r0 r1 r2 fd hp => exact .inr (hend hp)
  | toRead hs hp hv => exact .inl hp
  | read hs hc hstep hok => exact .inr (RecalcRate.thirteen_le_rank_of_readStep _ hstep)
  | toExec _ hc hp => exact .inl hp

/-- `SET_RATE` changes no byte outside the register that its phase names (43_set_rate.md R108). -/
theorem CmdEffect.readByte_eq {s t : State} {slot : BitVec 2} {i : SlotId} (hs : SlotId.ofBits slot = some i)
    (h : CmdEffect s (.setRate slot) t) {b : Nat} (hb : ∀ a, s.storeAddr i = some a → ¬ inRegister a b) :
    t.bus.readByte b = s.bus.readByte b := by
  have outside {a : Nat} (l : FieldLayout) (x : Word) (ha : s.storeAddr i = some a) :
      (s.rmw a l x).bus.readByte b = s.bus.readByte b := by
    refine State.rmw_readByte_outside s l x ?_
    have := hb a ha
    simp only [inRegister] at this
    omega
  cases h with
  | raise | finish | toExec | toLookup | lookup | delay | spin => rfl
  | read => rw [readField_bus]
  | preMux hs' hp hok | postMux hs' hp hok =>
    obtain rfl := Option.some.inj (hs.symm.trans hs')
    exact outside _ _ (by rw [State.storeAddr, hp])
  | pdOn hs' hp hok | pdOffToDelay hs' hp hok hv | pdOffToRead hs' hp hok hv =>
    obtain rfl := Option.some.inj (hs.symm.trans hs')
    exact outside _ _ (by rw [State.storeAddr, hp])
  | write hs' hstep he hok =>
    obtain rfl := Option.some.inj (hs.symm.trans hs')
    refine outside _ _ ?_
    simp only [writeSteps, List.mem_cons, Prod.mk.injEq, List.not_mem_nil, or_false] at hstep
    obtain ⟨rfl, hp, -⟩ | ⟨rfl, hp, -⟩ | ⟨rfl, hp, -⟩ | ⟨rfl, hp, -⟩ | ⟨rfl, hp, -⟩ | ⟨rfl, hp, -⟩ := hstep <;>
      rw [State.storeAddr, hp]

theorem endPhases_of_no_instance {c : Instr} (hc : ∀ slot, c ≠ .setRate slot ∧ c ≠ .recalcRate slot) :
    endPhases c = [.exec] := by
  cases c with
  | setRate slot => exact absurd rfl (hc slot).1
  | recalcRate slot => exact absurd rfl (hc slot).2
  | create | findRate | fieldLayout | fieldExtract | fieldInsert => rfl

theorem SlotsFrame.slots_eq {s t : State} {c : Instr} (h : SlotsFrame s c t)
    (hc : ∀ slot var auxp, c ≠ .create slot var auxp) : t.slots = s.slots := by
  rcases h with heq | ⟨-, -, slot, var, auxp, i, x, rfl, -, -⟩
  · exact heq
  · exact absurd rfl (hc slot var auxp)

/-- Every slot but the one that `CREATE` names stays. -/
theorem SlotsFrame.slot_eq {s t : State} {c : Instr} (h : SlotsFrame s c t) {j : SlotId}
    (hj : ∀ slot var auxp, c = .create slot var auxp → SlotId.ofBits slot ≠ some j) : t.slot j = s.slot j := by
  rcases h with heq | ⟨-, -, slot, var, auxp, i, x, hc, hs, heq⟩
  · exact congrArg (PerSlot.get · j) heq
  · have hne : j ≠ i := fun hji => hj slot var auxp hc (hji ▸ hs)
    rw [State.slot, heq, PerSlot.get_set_other _ _ hne]
    rfl

/-- Settles O25, by the frame of a command's step, the command being in `DECODE` or `EXEC`. -/
theorem lookupCommandsLeaveTheRest : Obligations.LookupCommandsLeaveTheRest := by
  intro s t c hc hexec
  have heffect := effect_of_exec hexec
  have hend := endPhases_of_no_instance hc
  have hbus := heffect.bus_eq fun slot => (hc slot).1
  have hframe := heffect.frame
  obtain ⟨hphase, htrace⟩ := heffect.of_lookup hend
  have phase_ne {p : Phase} (hdecode : p ≠ .decode) (hexec : p ≠ .exec) : s.phase ≠ p := by
    rcases hphase with hp | hp <;> rw [hp] <;> exact Ne.symm ‹_›
  have href : s.phase ∉ refPhases c := by
    cases c with
    | setRate slot => exact absurd rfl (hc slot).1
    | recalcRate slot => exact absurd rfl (hc slot).2
    | create | findRate | fieldLayout | fieldExtract | fieldInsert => exact List.not_mem_nil
  exact ⟨fun a => by rw [hbus], hbus, htrace, hframe.arg0, hframe.arg1, hframe.arg2, hframe.arg3, hframe.latch,
    hframe.nowUs, hframe.idx (phase_ne (by decide) (by decide)), hframe.ref href,
    hframe.t0 (phase_ne (by decide) (by decide)),
    hframe.rbDacpd (phase_ne (by decide) (by decide)), hframe.rbDsmpd (phase_ne (by decide) (by decide)),
    hframe.rbPrediv (phase_ne (by decide) (by decide)), hframe.rbFbdiv (phase_ne (by decide) (by decide)),
    hframe.rbPostdiv (phase_ne (by decide) (by decide)), hframe.rbFrac (phase_ne (by decide) (by decide)),
    hframe.cfg, hframe.cfgChecked, hframe.schedule, hframe.draws, hframe.hostData,
    fun j hj => hframe.slots.slot_eq hj, hframe.fault, fun hp => hframe.result (by simpa [hend] using hp)⟩

/-- Settles O35, by the frame of a command's step, the command being in `DECODE` or a recalc phase. -/
theorem recalcLeavesTheRest : Obligations.RecalcLeavesTheRest := by
  intro s t slot hexec
  have heffect := effect_of_exec hexec
  have hbus := heffect.bus_eq fun _ => nofun
  have hframe := heffect.frame
  have hslots := hframe.slots.slots_eq fun _ _ _ => nofun
  have phase_ne {p : Phase} (hdecode : p ≠ .decode) (hrank : p.rank < 13) : s.phase ≠ p := by
    rcases heffect.phase_of_recalcRate with hp | hp <;> rintro rfl
    · exact hdecode hp
    · omega
  exact ⟨fun b => by rw [hbus], hframe.arg0, hframe.arg1, hframe.arg2, hframe.arg3, hframe.latch, hslots,
    hframe.idx (phase_ne (by decide) (by decide)), hframe.t0 (phase_ne (by decide) (by decide)), hframe.nowUs,
    hframe.cfg, hframe.cfgChecked, hframe.schedule, hframe.draws, hframe.hostData, hframe.trace,
    fun hp => hframe.result (by simpa [endPhases] using hp), hframe.fault,
    fun hp => hframe.ref (by simpa [refPhases] using hp), hframe.rbDacpd, hframe.rbDsmpd, hframe.rbPrediv,
    hframe.rbFbdiv, hframe.rbPostdiv, hframe.rbFrac⟩

/-- Settles O31, by the frame of a command's step and the one register that the phase names. -/
theorem setRateLeavesTheRest : Obligations.SetRateLeavesTheRest := by
  intro s t slot i hs hexec
  have heffect := effect_of_exec hexec
  have hframe := heffect.frame
  have hslots := hframe.slots.slots_eq fun _ _ _ => nofun
  refine ⟨fun a ha b hb => heffect.readByte_eq hs fun a' ha' => ?_, fun hnone b => heffect.readByte_eq hs fun a ha => ?_,
    hframe.arg0, hframe.arg1, hframe.arg2, hframe.arg3, hframe.latch, hslots, hframe.nowUs, hframe.cfg, hframe.cfgChecked,
    hframe.schedule, hframe.draws, hframe.hostData, hframe.trace,
    fun hlookup hcompute => hframe.result (by simp [endPhases, hlookup, hcompute]), hframe.fault, hframe.idx, hframe.t0,
    fun hoff hpost => hframe.ref (by simp [refPhases, hoff, hpost]), hframe.rbDacpd, hframe.rbDsmpd, hframe.rbPrediv,
    hframe.rbFbdiv, hframe.rbPostdiv, hframe.rbFrac⟩
  · exact Option.some.inj (ha.symm.trans ha') ▸ hb
  · cases hnone.symm.trans ha

/-! ## The frame of a step of the machine -/

/-- What a step of the machine from `s` to `t` leaves unchanged, whichever agent makes it. -/
structure StepFrame (s t : State) : Prop where
  cfg : t.cfg = s.cfg := by rfl
  cfgChecked : t.cfgChecked = true := by assumption
  nowUs : s.nowUs.toNat ≤ t.nowUs.toNat := by exact Nat.le_refl _
  trace : s.schedule.head? ≠ some .reset → s.trace <+: t.trace := by exact fun _ => List.prefix_rfl
  arg0 : s.schedule.head? ≠ some .reset → (∀ v, s.schedule.head? ≠ some (.hostWrite 0x04 v)) → t.arg0 = s.arg0 := by
    exact fun _ _ => rfl
  arg1 : s.schedule.head? ≠ some .reset → (∀ v, s.schedule.head? ≠ some (.hostWrite 0x08 v)) → t.arg1 = s.arg1 := by
    exact fun _ _ => rfl
  arg2 : s.schedule.head? ≠ some .reset → (∀ v, s.schedule.head? ≠ some (.hostWrite 0x0C v)) → t.arg2 = s.arg2 := by
    exact fun _ _ => rfl
  arg3 : s.schedule.head? ≠ some .reset → (∀ v, s.schedule.head? ≠ some (.hostWrite 0x10 v)) → t.arg3 = s.arg3 := by
    exact fun _ _ => rfl
  firstFault : s.schedule.head? ≠ some .reset → s.faulted = true →
      t.faulted = true ∧ t.fcode = s.fcode ∧ t.fslot = s.fslot := by
    exact fun _ h => ⟨h, rfl, rfl⟩
  slots : s.schedule.head? = some .reset ∨ t.slots = s.slots ∨
      ∃ c, decode s.latch.word = .ok c ∧ SlotsFrame s c t := by
    exact .inr (.inl rfl)

/-- A write of the interface changes no operand register but the one at its offset (10_state.md R20). -/
theorem ifaceWrite_args (s : State) (off : Nat) (v : Word) :
    (off ≠ 0x04 → (s.ifaceWrite off v).arg0 = s.arg0) ∧ (off ≠ 0x08 → (s.ifaceWrite off v).arg1 = s.arg1) ∧
    (off ≠ 0x0C → (s.ifaceWrite off v).arg2 = s.arg2) ∧ (off ≠ 0x10 → (s.ifaceWrite off v).arg3 = s.arg3) := by
  unfold State.ifaceWrite State.writeCmd
  split_ifs <;> simp [*]

theorem StepFrame.args {s : State} {off : Nat} {v : Word} {ms : List Move} {a0 a1 a2 a3 : Word} (hc : s.cfgChecked = true)
    (hsched : s.schedule = .hostWrite off v :: ms)
    (heq : State.ifaceWrite { s with schedule := ms } off v =
      { s with schedule := ms, arg0 := a0, arg1 := a1, arg2 := a2, arg3 := a3 }) :
    StepFrame s { s with schedule := ms, arg0 := a0, arg1 := a1, arg2 := a2, arg3 := a3 } := by
  have hargs := ifaceWrite_args { s with schedule := ms } off v
  rw [heq] at hargs
  obtain ⟨h0, h1, h2, h3⟩ := hargs
  have off_ne {n : Nat} (h : ∀ w, s.schedule.head? ≠ some (.hostWrite n w)) : off ≠ n := fun hoff =>
    h v (by rw [hsched, hoff]; rfl)
  exact {
    arg0 := fun _ h => h0 (off_ne h), arg1 := fun _ h => h1 (off_ne h), arg2 := fun _ h => h2 (off_ne h)
    arg3 := fun _ h => h3 (off_ne h) }

theorem StepFrame.of_reset {s : State} {ms : List Move} (hc : s.cfgChecked = true) (hsched : s.schedule = .reset :: ms) :
    StepFrame s (State.resetBlock { s with schedule := ms }) := by
  have hhead : s.schedule.head? = some .reset := by rw [hsched]; rfl
  exact {
    trace := fun h => absurd hhead h, arg0 := fun h => absurd hhead h, arg1 := fun h => absurd hhead h
    arg2 := fun h => absurd hhead h, arg3 := fun h => absurd hhead h, firstFault := fun h => absurd hhead h
    slots := .inl hhead }

theorem StepEffect.frame {s t : State} (h : StepEffect s t) : StepFrame s t := by
  cases h with
  | config hc hwf => exact { cfgChecked := rfl }
  | command ms hc hen hd h =>
    have hframe := h.frame
    exact {
      cfg := hframe.cfg
      cfgChecked := hframe.cfgChecked.trans hc
      nowUs := Nat.le_of_eq (congrArg _ hframe.nowUs.symm)
      trace := fun _ => hframe.trace
      arg0 := fun _ _ => hframe.arg0, arg1 := fun _ _ => hframe.arg1
      arg2 := fun _ _ => hframe.arg2, arg3 := fun _ _ => hframe.arg3
      firstFault := fun _ => hframe.firstFault
      slots := .inr (.inr ⟨_, hd, hframe.slots⟩) }
  | illegal ms hc hp hd => exact { firstFault := fun _ => raise_of_faulted (s := { s with schedule := ms }) _ }
  | time ms d n hc hd hroom =>
    exact { nowUs := (Nat.le_add_right _ d).trans_eq (State.advance_toNat hroom).symm }
  | look ms w hc => exact {}
  | accept w ms hc hsched hb => exact {}
  | whileBusy w ms hc hsched hb => exact { firstFault := fun _ => raise_of_faulted (s := { s with schedule := ms }) _ }
  | args off v ms a0 a1 a2 a3 hc hsched heq => exact .args hc hsched heq
  | busWrite a v ms hc hsched hmay => exact { trace := fun _ => List.prefix_append _ _ }
  | reset ms hc hsched => exact .of_reset hc hsched

/-- Settles O13: `raise` keeps the first fault, and no other step but a reset writes `FAULT`. -/
theorem firstFaultIsKept : Obligations.FirstFaultIsKept :=
  fun _ _ hfaulted hreset hstep => (effect_of_step hstep).frame.firstFault hreset hfaulted

/-- Settles O53: of the steps that are no reset, only the binding of `CREATE` changes the slots. -/
theorem onlyCreateAndResetChangeSlots : Obligations.OnlyCreateAndResetChangeSlots := by
  intro s t hstep hne
  rcases (effect_of_step hstep).frame.slots with hreset | heq | ⟨c, hd, heq | ⟨hp, hp', slot, var, auxp, i, x, rfl, hs, heq⟩⟩
  · exact .inl hreset
  · exact absurd heq hne
  · exact absurd heq hne
  · refine .inr ⟨hp, hp', slot, var, auxp, i, hd, hs, fun j hj => ?_⟩
    rw [State.slot, heq, PerSlot.get_set_other _ _ hj]
    rfl

/-- Settles O54, by the frame of a step of the machine. -/
theorem stepRespectsTheOtherAgents : Obligations.StepRespectsTheOtherAgents := by
  intro s t hstep
  have hframe := (effect_of_step hstep).frame
  exact ⟨hframe.cfg, hframe.nowUs, hframe.trace, fun hreset =>
    ⟨hframe.arg0 hreset, hframe.arg1 hreset, hframe.arg2 hreset, hframe.arg3 hreset⟩⟩

end Sys2Proof.Effects
end

section
/-! PROOFS. The operand registers are no part of what a running command does (10_state.md R20; 70_reset_and_hazards.md R170):
every step but the host's accesses to the interface and reset commutes with a change of `ARG0`..`ARG3`. -/

namespace Sys2Proof.Latching

open Sys2Proof.Machine

/-- `s` with other operand registers. -/
def setArgs (a0 a1 a2 a3 : Word) (s : State) : State := { s with arg0 := a0, arg1 := a1, arg2 := a2, arg3 := a3 }

/-- The outcome with its next state changed by `g`. -/
def mapNext (g : State → State) : Result → Result
  | .next s    => .next (g s)
  | .fault r   => .fault r
  | .refused r => .refused r

section
variable (a0 a1 a2 a3 : Word) (s : State)

theorem onBus_setArgs (a : Nat) {k k' : State} (hk : k' = setArgs a0 a1 a2 a3 k) :
    (setArgs a0 a1 a2 a3 s).onBus a k' = mapNext (setArgs a0 a1 a2 a3) (s.onBus a k) := by
  subst hk
  have hok : (setArgs a0 a1 a2 a3 s).busOk a = s.busOk a := rfl
  unfold State.onBus
  rw [hok]
  split <;> rfl

theorem decodeThenExec_setArgs {g : State → State} (hg : g (setArgs a0 a1 a2 a3 s) = setArgs a0 a1 a2 a3 (g s)) :
    (setArgs a0 a1 a2 a3 s).decodeThenExec g = mapNext (setArgs a0 a1 a2 a3) (s.decodeThenExec g) := by
  have hphase : (setArgs a0 a1 a2 a3 s).phase = s.phase := rfl
  unfold State.decodeThenExec
  rw [hphase, hg]
  cases s.phase <;> rfl

theorem illegal_setArgs : (setArgs a0 a1 a2 a3 s).illegal = mapNext (setArgs a0 a1 a2 a3) s.illegal := by
  have hphase : (setArgs a0 a1 a2 a3 s).phase = s.phase := rfl
  unfold State.illegal
  rw [hphase]
  cases s.phase <;> rfl

theorem decodeBound_setArgs (i : SlotId) (k : State) :
    (setArgs a0 a1 a2 a3 s).decodeBound i (setArgs a0 a1 a2 a3 k) = setArgs a0 a1 a2 a3 (s.decodeBound i k) := by
  have hslot : (setArgs a0 a1 a2 a3 s).slot i = s.slot i := rfl
  unfold State.decodeBound
  rw [hslot]
  split <;> rfl

/-! ### The effects of the commands without bus access -/

theorem createEffect_setArgs (i : SlotId) (var : BitVec 2) (auxp : Bool) :
    createEffect i var auxp (setArgs a0 a1 a2 a3 s) = setArgs a0 a1 a2 a3 (createEffect i var auxp s) := by
  have haddr (v : Variant) (base : DWord) (aux : DWord) :
      (setArgs a0 a1 a2 a3 s).addrOk v base auxp aux = s.addrOk v base auxp aux := rfl
  have halias (v : Variant) (base : DWord) (aux : DWord) :
      (setArgs a0 a1 a2 a3 s).aliases i v base auxp aux = s.aliases i v base auxp aux := rfl
  have hslot : (setArgs a0 a1 a2 a3 s).slot i = s.slot i := rfl
  have hlatch : (setArgs a0 a1 a2 a3 s).latch = s.latch := rfl
  unfold createEffect
  cases Variant.ofBits var with
  | none => rfl
  | some v =>
    simp only [haddr, halias, hslot, hlatch]
    split_ifs <;> rfl

theorem findRateEffect_setArgs (var : BitVec 2) :
    findRateEffect var (setArgs a0 a1 a2 a3 s) = setArgs a0 a1 a2 a3 (findRateEffect var s) := by
  cases hv : Variant.ofBits var with
  | none => rw [FieldCodec.findRateEffect_of_no_variant hv, FieldCodec.findRateEffect_of_no_variant hv]; rfl
  | some v =>
    have htable : (setArgs a0 a1 a2 a3 s).cfg.rateTable = s.cfg.rateTable := rfl
    have hlatch : (setArgs a0 a1 a2 a3 s).latch = s.latch := rfl
    rw [RateLookup.findRateEffect_of_variant hv, RateLookup.findRateEffect_of_variant hv, htable, hlatch]
    cases findRate (s.cfg.rateTable.get v) s.latch.operandLo <;> rfl

theorem codecEffect_setArgs (var : BitVec 2) (f : FieldId) {g : FieldLayout → State → State}
    (hg : ∀ l, g l (setArgs a0 a1 a2 a3 s) = setArgs a0 a1 a2 a3 (g l s)) :
    codecEffect var f g (setArgs a0 a1 a2 a3 s) = setArgs a0 a1 a2 a3 (codecEffect var f g s) := by
  unfold codecEffect
  cases Variant.ofBits var with
  | none => rfl
  | some v => exact hg _

theorem insertEffect_setArgs (l : FieldLayout) :
    insertEffect l (setArgs a0 a1 a2 a3 s) = setArgs a0 a1 a2 a3 (insertEffect l s) := by
  have hlatch : (setArgs a0 a1 a2 a3 s).latch = s.latch := rfl
  unfold insertEffect
  rw [hlatch]
  split <;> rfl

/-! ### The phases of the commands on a slot -/

theorem srLookup_setArgs (i : SlotId) : (setArgs a0 a1 a2 a3 s).srLookup i = setArgs a0 a1 a2 a3 (s.srLookup i) := by
  have htable : (setArgs a0 a1 a2 a3 s).slotTable i = s.slotTable i := rfl
  have hslot : (setArgs a0 a1 a2 a3 s).slot i = s.slot i := rfl
  have hlatch : (setArgs a0 a1 a2 a3 s).latch = s.latch := rfl
  unfold State.srLookup
  rw [htable, hslot, hlatch]
  cases findRate (s.slotTable i) s.latch.operandLo with
  | none => rfl
  | some n =>
    simp only
    split_ifs <;> rfl

theorem writeEntryField_setArgs (i : SlotId) (f : FieldId) (p : Phase) :
    (setArgs a0 a1 a2 a3 s).writeEntryField i f p = mapNext (setArgs a0 a1 a2 a3) (s.writeEntryField i f p) := by
  have hentry : (setArgs a0 a1 a2 a3 s).entry i = s.entry i := rfl
  unfold State.writeEntryField
  rw [hentry]
  cases s.entry i with
  | none => rfl
  | some e => exact onBus_setArgs _ _ _ _ _ _ rfl

theorem srPdOff_setArgs (i : SlotId) :
    (setArgs a0 a1 a2 a3 s).srPdOff i = mapNext (setArgs a0 a1 a2 a3) (s.srPdOff i) := by
  have hslot : (setArgs a0 a1 a2 a3 s).slot i = s.slot i := rfl
  unfold State.srPdOff
  rw [hslot]
  split_ifs <;> exact onBus_setArgs _ _ _ _ _ _ rfl

theorem srDelay_setArgs : (setArgs a0 a1 a2 a3 s).srDelay = setArgs a0 a1 a2 a3 s.srDelay := by
  have hsettled : (setArgs a0 a1 a2 a3 s).settled = s.settled := rfl
  unfold State.srDelay
  rw [hsettled]
  split <;> rfl

theorem rcCompute_setArgs : (setArgs a0 a1 a2 a3 s).rcCompute = setArgs a0 a1 a2 a3 s.rcCompute := by
  have hmode : (setArgs a0 a1 a2 a3 s).rbDacpd = s.rbDacpd := rfl
  by_cases hequal : s.rbDacpd = s.rbDsmpd
  · rw [RecalcRate.rcCompute_of_equal_modes (s := setArgs a0 a1 a2 a3 s) hequal, RecalcRate.rcCompute_of_equal_modes hequal]
    have hpre : (setArgs a0 a1 a2 a3 s).rbPrediv = s.rbPrediv := rfl
    have hfrac : (setArgs a0 a1 a2 a3 s).fracc = s.fracc := rfl
    have href : (setArgs a0 a1 a2 a3 s).ref = s.ref := rfl
    have hfb : (setArgs a0 a1 a2 a3 s).rbFbdiv = s.rbFbdiv := rfl
    rw [hpre, hfrac, href, hfb]
    split_ifs <;> rfl
  · rw [RecalcRate.rcCompute_of_mixed_modes (s := setArgs a0 a1 a2 a3 s) hequal,
      RecalcRate.rcCompute_of_mixed_modes hequal]
    rfl

theorem recalcStep_setArgs (i : SlotId) :
    (setArgs a0 a1 a2 a3 s).recalcStep i = mapNext (setArgs a0 a1 a2 a3) (s.recalcStep i) := by
  have hphase : (setArgs a0 a1 a2 a3 s).phase = s.phase := rfl
  unfold State.recalcStep
  rw [hphase]
  cases s.phase
  case rcRDacpd | rcRDsmpd | rcRPrediv | rcRFbdiv | rcRPostdiv | rcRFrac => exact onBus_setArgs _ _ _ _ _ _ rfl
  case rcCompute => exact congrArg _ (rcCompute_setArgs ..)
  all_goals rfl

/-! ### The commands -/

theorem execSetRate_setArgs (slot : BitVec 2) :
    execSetRate slot (setArgs a0 a1 a2 a3 s) = mapNext (setArgs a0 a1 a2 a3) (execSetRate slot s) := by
  have hphase : (setArgs a0 a1 a2 a3 s).phase = s.phase := rfl
  unfold execSetRate
  cases SlotId.ofBits slot with
  | none => exact illegal_setArgs ..
  | some i =>
    simp only [hphase]
    cases s.phase
    case decode => exact congrArg _ (decodeBound_setArgs a0 a1 a2 a3 s i { s with phase := .srLookup })
    case srLookup => exact congrArg _ (srLookup_setArgs ..)
    case srWDacpd | srWDsmpd | srWFrac | srWPrediv | srWFbdiv | srWPostdiv => exact writeEntryField_setArgs ..
    case srPdOff => exact srPdOff_setArgs ..
    case srDelay => exact congrArg _ (srDelay_setArgs ..)
    case srPreMux | srPdOn | srPostMux => exact onBus_setArgs _ _ _ _ _ _ rfl
    all_goals exact recalcStep_setArgs ..

theorem execRecalcRate_setArgs (slot : BitVec 2) :
    execRecalcRate slot (setArgs a0 a1 a2 a3 s) = mapNext (setArgs a0 a1 a2 a3) (execRecalcRate slot s) := by
  have hphase : (setArgs a0 a1 a2 a3 s).phase = s.phase := rfl
  unfold execRecalcRate
  cases SlotId.ofBits slot with
  | none => exact illegal_setArgs ..
  | some i =>
    simp only [hphase]
    cases s.phase
    case decode =>
      exact congrArg _ (decodeBound_setArgs a0 a1 a2 a3 s i { s with ref := s.latch.operandLo, phase := .rcRDacpd })
    all_goals exact recalcStep_setArgs ..

/-- No command reads or writes an operand register: its operands stand in the latch (10_state.md R24). -/
theorem exec_setArgs (c : Instr) :
    exec c (setArgs a0 a1 a2 a3 s) = mapNext (setArgs a0 a1 a2 a3) (exec c s) := by
  cases c with
  | create slot var auxp =>
    simp only [exec, execCreate]
    cases SlotId.ofBits slot with
    | none => exact illegal_setArgs ..
    | some i => exact decodeThenExec_setArgs _ _ _ _ _ (createEffect_setArgs ..)
  | findRate var => exact decodeThenExec_setArgs _ _ _ _ _ (findRateEffect_setArgs ..)
  | fieldLayout var fld =>
    simp only [exec, execFieldLayout]
    cases FieldId.ofBits fld with
    | none => exact illegal_setArgs ..
    | some f => exact decodeThenExec_setArgs _ _ _ _ _ (codecEffect_setArgs _ _ _ _ _ _ _ fun _ => rfl)
  | fieldExtract var fld =>
    simp only [exec, execFieldExtract]
    cases FieldId.ofBits fld with
    | none => exact illegal_setArgs ..
    | some f => exact decodeThenExec_setArgs _ _ _ _ _ (codecEffect_setArgs _ _ _ _ _ _ _ fun _ => rfl)
  | fieldInsert var fld =>
    simp only [exec, execFieldInsert]
    cases FieldId.ofBits fld with
    | none => exact illegal_setArgs ..
    | some f =>
      exact decodeThenExec_setArgs _ _ _ _ _ (codecEffect_setArgs _ _ _ _ _ _ _ fun l => insertEffect_setArgs _ _ _ _ _ l)
  | setRate slot => exact execSetRate_setArgs ..
  | recalcRate slot => exact execRecalcRate_setArgs ..

/-! ### The agents -/

theorem seqStep_setArgs : (setArgs a0 a1 a2 a3 s).seqStep = mapNext (setArgs a0 a1 a2 a3) s.seqStep := by
  have hlatch : (setArgs a0 a1 a2 a3 s).latch = s.latch := rfl
  unfold State.seqStep
  rw [hlatch]
  cases decode s.latch.word with
  | ok c => exact exec_setArgs ..
  | error e => exact illegal_setArgs ..

theorem timePasses_setArgs : (setArgs a0 a1 a2 a3 s).timePasses = mapNext (setArgs a0 a1 a2 a3) s.timePasses := by
  have hnow : (setArgs a0 a1 a2 a3 s).nowUs = s.nowUs := rfl
  unfold State.timePasses
  rw [hnow]
  simp only
  split <;> rfl

theorem autoStep_setArgs : (setArgs a0 a1 a2 a3 s).autoStep = mapNext (setArgs a0 a1 a2 a3) s.autoStep := by
  have hen : (setArgs a0 a1 a2 a3 s).seqEnabled = s.seqEnabled := rfl
  unfold State.autoStep
  rw [hen, seqStep_setArgs, timePasses_setArgs]
  split <;> rfl

theorem othersStep_setArgs : (setArgs a0 a1 a2 a3 s).othersStep = mapNext (setArgs a0 a1 a2 a3) s.othersStep := by
  have hen : (setArgs a0 a1 a2 a3 s).seqEnabled = s.seqEnabled := rfl
  have hroom : (setArgs a0 a1 a2 a3 s).canAdvance 1 = s.canAdvance 1 := rfl
  unfold State.othersStep
  rw [hen, hroom, seqStep_setArgs, timePasses_setArgs]
  split_ifs <;> rfl

/-- A move that is no access of the host to the interface and no reset. -/
theorem runMove_setArgs {m : Move} (hwrite : ∀ off v, m ≠ .hostWrite off v) (hread : ∀ off, m ≠ .hostRead off)
    (hreset : m ≠ .reset) : (setArgs a0 a1 a2 a3 s).runMove m = mapNext (setArgs a0 a1 a2 a3) (s.runMove m) := by
  cases m with
  | sequencer =>
    have hen : (setArgs a0 a1 a2 a3 s).seqEnabled = s.seqEnabled := rfl
    unfold State.runMove
    simp only [hen, seqStep_setArgs]
    split <;> rfl
  | hostWrite off v => exact absurd rfl (hwrite off v)
  | hostRead off => exact absurd rfl (hread off)
  | busWrite a v =>
    have hmay : (setArgs a0 a1 a2 a3 s).mayBusWrite a = s.mayBusWrite a := rfl
    unfold State.runMove State.moveBusWrite
    simp only [hmay]
    split <;> rfl
  | wait => rfl
  | others => exact othersStep_setArgs ..
  | tick d =>
    have hcan : (setArgs a0 a1 a2 a3 s).canAdvance d = s.canAdvance d := rfl
    unfold State.runMove State.moveTick
    simp only [hcan]
    split <;> rfl
  | reset => exact absurd rfl hreset

theorem checkConfig_setArgs : (setArgs a0 a1 a2 a3 s).checkConfig = mapNext (setArgs a0 a1 a2 a3) s.checkConfig := by
  have hcfg : (setArgs a0 a1 a2 a3 s).cfg = s.cfg := rfl
  unfold State.checkConfig
  rw [hcfg]
  split <;> rfl

theorem step_setArgs (hwrite : ∀ off v, s.schedule.head? ≠ some (.hostWrite off v))
    (hread : ∀ off, s.schedule.head? ≠ some (.hostRead off)) (hreset : s.schedule.head? ≠ some .reset) :
    step (setArgs a0 a1 a2 a3 s) = mapNext (setArgs a0 a1 a2 a3) (step s) := by
  have hchecked : (setArgs a0 a1 a2 a3 s).cfgChecked = s.cfgChecked := rfl
  have hsched : (setArgs a0 a1 a2 a3 s).schedule = s.schedule := rfl
  unfold step State.machineStep State.agentStep
  rw [hchecked, hsched, checkConfig_setArgs, autoStep_setArgs]
  cases hm : s.schedule with
  | nil => split <;> rfl
  | cons m ms =>
    rw [hm, List.head?_cons] at hreset
    simp only [hm, List.head?_cons] at hwrite hread
    have hmove := runMove_setArgs a0 a1 a2 a3 { s with schedule := ms } (m := m)
      (fun off v h => hwrite off v (congrArg some h)) (fun off h => hread off (congrArg some h))
      fun h => hreset (congrArg some h)
    split
    · exact hmove
    · rfl

end

/-- Settles O55: the step commutes with a change of the operand registers. -/
theorem operandsAreLatched : Obligations.OperandsAreLatched := by
  intro s t a0 a1 a2 a3 hwrite hread hreset hstep
  have h := step_setArgs a0 a1 a2 a3 s hwrite hread hreset
  rw [hstep] at h
  exact h

end Sys2Proof.Latching
end

section
/-! PROOFS. Single steps: whose turn it is (10_state.md R17; 30_encoding.md R67, R71), reset (70_reset_and_hazards.md R159), the
settling wait (43_set_rate.md R104), the host's accesses (10_state.md R19 to R23; 60_exceptions.md R151) and the time source
(R153). -/

namespace Sys2Proof.Steps

open Sys2Proof.Machine

/-! ## Whose turn it is -/

/-- A sequencer that has a step takes it, whether the schedule gives it the turn or a waiting host does. -/
theorem step_turn {s : State} {m : Move} {ms : List Move} (hc : s.cfgChecked = true) (hen : s.seqEnabled = true)
    (hm : m ∈ [Move.sequencer, .others]) (hsched : s.schedule = m :: ms) :
    step s = State.seqStep { s with schedule := ms } := by
  rw [step_move hc hsched]
  simp only [List.mem_cons, List.not_mem_nil, or_false] at hm
  rcases hm with rfl | rfl <;> exact if_pos hen

theorem step_unasked {s : State} (hc : s.cfgChecked = true) (hen : s.seqEnabled = true) (hsched : s.schedule = []) :
    step s = s.seqStep := by
  rw [step_alone ⟨hc, hsched⟩]
  exact if_pos hen

theorem seqStep_of_ok {s : State} {c : Instr} (hd : decode s.latch.word = .ok c) : s.seqStep = exec c s := by
  rw [State.seqStep, hd]

/-- A word that is no command raises `ILLEGAL_COMMAND` in `DECODE` (30_encoding.md R67). -/
theorem seqStep_of_error {s : State} {e : DecodeError} (hd : decode s.latch.word = .error e) (hp : s.phase = .decode) :
    s.seqStep = .next (s.raise .illegalCommand) := by
  simp only [State.seqStep, hd]
  exact State.illegal_eq_next.mpr ⟨hp, rfl⟩

theorem seqEnabled_of_decode {s : State} (hp : s.phase = .decode) : s.seqEnabled = true := by
  rw [State.seqEnabled, hp]

/-- Settles O6: each of the three turns is the sequencer's step, which runs the command. -/
theorem stepRunsTheLatchedCommand : Obligations.StepRunsTheLatchedCommand := by
  intro s i ms hc hen hd
  refine ⟨fun hsched => (step_unasked hc hen hsched).trans (seqStep_of_ok hd), fun m hm hsched => ?_, ?_⟩
  · exact (step_turn hc hen hm hsched).trans (seqStep_of_ok (s := { s with schedule := ms }) hd)
  · intro hsched hb u
    exact ⟨step_wait_busy hc hsched hb,
      (step_turn (s := u) hc hen (by simp) rfl).trans (seqStep_of_ok (s := { u with schedule := .wait :: ms }) hd)⟩

/-- Settles O8: each of the three turns is the sequencer's step, which raises the fault. -/
theorem illegalWordRaisesInDecode : Obligations.IllegalWordRaisesInDecode := by
  intro s e ms hc hp hd illegal
  have hen := seqEnabled_of_decode hp
  refine ⟨fun hsched => (step_unasked hc hen hsched).trans (seqStep_of_error hd hp), fun m hm hsched => ?_, ?_⟩
  · exact (step_turn hc hen hm hsched).trans (seqStep_of_error (s := { s with schedule := ms }) hd hp)
  · intro hsched hb u
    exact ⟨step_wait_busy hc hsched hb, (step_turn (s := u) hc hen (by simp) rfl).trans
      (seqStep_of_error (s := { u with schedule := .wait :: ms }) hd hp)⟩

/-- With no other move asked for, a placed command is an accepted one (notes/assumptions/3.md). -/
theorem withCommand_of_unasked {s : State} (hsched : s.schedule = []) (w : Word) :
    s.withCommand w = { s.accept w with cfgChecked := true } := by
  cases s
  cases hsched
  rfl

/-- Settles O7: the placed word is that of acceptance, and `DECODE` of it is the next turn. -/
theorem placedWordRunsNext : Obligations.PlacedWordRunsNext := by
  intro s w i hsched hw hd
  have hplaced : s.withFetchWord 32 w = { s.accept (BitVec.ofNat 32 w) with cfgChecked := true } := by
    rw [State.withFetchWord, Nat.mod_eq_of_lt hw, withCommand_of_unasked hsched]
  refine ⟨?_, hplaced⟩
  rw [hplaced]
  exact (step_unasked (s := { s.accept (BitVec.ofNat 32 w) with cfgChecked := true }) rfl rfl hsched).trans
    (seqStep_of_ok hd)

/-! ## The `DECODE` step of every command (30_encoding.md R67) -/

theorem exists_slot_of_ne_three {slot : BitVec 2} (h : slot ≠ 3) : ∃ i, SlotId.ofBits slot = some i :=
  Option.ne_none_iff_exists'.mp (mt (SlotId.ofBits_eq_none slot).mp h)

section
variable {s : State} (hp : s.phase = .decode)
include hp

theorem decodeThenExec_of_decode (g : State → State) : s.decodeThenExec g = .next { s with phase := .exec } :=
  State.decodeThenExec_eq_next.mpr (.inl ⟨hp, rfl⟩)

/-- A well-formed command without bus access goes on to `EXEC`. -/
theorem exec_decode_of_lookup {c : Instr} (hwf : c.wf = true) (hc : Effects.endPhases c = [.exec]) :
    exec c s = .next { s with phase := .exec } := by
  have codec {fld : BitVec 3} (hfld : (fld != 7) = true) := FieldCodec.exists_field_of_ne_seven (bne_iff_ne.mp hfld)
  cases c with
  | create slot var auxp =>
    obtain ⟨i, hi⟩ := exists_slot_of_ne_three (bne_iff_ne.mp hwf)
    simp only [exec, execCreate, hi]
    exact decodeThenExec_of_decode hp _
  | findRate var => exact decodeThenExec_of_decode hp _
  | fieldLayout var fld =>
    obtain ⟨f, hf⟩ := codec hwf
    simp only [exec, execFieldLayout, hf]
    exact decodeThenExec_of_decode hp _
  | fieldExtract var fld =>
    obtain ⟨f, hf⟩ := codec hwf
    simp only [exec, execFieldExtract, hf]
    exact decodeThenExec_of_decode hp _
  | fieldInsert var fld =>
    obtain ⟨f, hf⟩ := codec hwf
    simp only [exec, execFieldInsert, hf]
    exact decodeThenExec_of_decode hp _
  | setRate | recalcRate => cases hc

variable {slot : BitVec 2} {i : SlotId} (hs : SlotId.ofBits slot = some i)
include hs

theorem exec_setRate_of_decode :
    exec (.setRate slot) s = .next (s.decodeBound i { s with phase := .srLookup }) := by
  simp only [exec, execSetRate, hs, hp]

theorem exec_recalcRate_of_decode :
    exec (.recalcRate slot) s =
      .next (s.decodeBound i { s with ref := s.latch.operandLo, phase := .rcRDacpd }) := by
  simp only [exec, execRecalcRate, hs, hp]

end

theorem decodeBound_of_valid {s n : State} {i : SlotId} (hv : (s.slot i).valid = true) : s.decodeBound i n = n := if_pos hv

theorem decodeBound_of_not_valid {s n : State} {i : SlotId} (hv : (s.slot i).valid = false) :
    s.decodeBound i n = s.raise .noInstance :=
  if_neg (Bool.eq_false_iff.mp hv)

/-- Settles O9, by the kind of the command and whether its slot is bound. -/
theorem decodeStepDispatches : Obligations.DecodeStepDispatches := by
  intro s hp
  refine ⟨fun c hwf hc => exec_decode_of_lookup hp hwf (Effects.endPhases_of_no_instance hc), fun slot i hs hv => ⟨?_, ?_⟩,
    fun slot i hs hv c hc => ?_⟩
  · rw [exec_setRate_of_decode hp hs, decodeBound_of_valid hv]
  · rw [exec_recalcRate_of_decode hp hs, decodeBound_of_valid hv]
    rfl
  · simp only [List.mem_cons, List.not_mem_nil, or_false] at hc
    rcases hc with rfl | rfl
    · rw [exec_setRate_of_decode hp hs, decodeBound_of_not_valid hv]
      rfl
    · rw [exec_recalcRate_of_decode hp hs, decodeBound_of_not_valid hv]
      rfl

/-! ## Reset (70_reset_and_hazards.md R159, R160) -/

theorem statusWord_toNat (s : State) :
    s.statusWord.toNat = s.busy.toNat + 2 * s.found.toNat + 16 * s.code.toNat := by
  have hflags := Encoding.toNat_append_eq_add (BitVec.ofBool s.found) (BitVec.ofBool s.busy)
  have hpad := Encoding.toNat_append_eq_add (0#2) (BitVec.ofBool s.found ++ BitVec.ofBool s.busy)
  have hcode := Encoding.toNat_append_eq_add s.code (0#2 ++ (BitVec.ofBool s.found ++ BitVec.ofBool s.busy))
  have hword : s.statusWord.toNat =
      2 ^ (4 + (2 + (1 + 1))) * (0#24).toNat + (s.code ++ (0#2 ++ (BitVec.ofBool s.found ++ BitVec.ofBool s.busy))).toNat :=
    Encoding.toNat_append_eq_add (0#24) (s.code ++ (0#2 ++ (BitVec.ofBool s.found ++ BitVec.ofBool s.busy)))
  simp only [BitVec.toNat_ofBool, BitVec.toNat_ofNat] at hflags hpad hword
  omega

theorem faultWord_toNat (s : State) :
    s.faultWord.toNat = s.fcode.toNat + 16 * s.fslot.toNat + 2 ^ 31 * s.faulted.toNat := by
  have hcode := Encoding.toNat_append_eq_add s.fslot s.fcode
  have hpad := Encoding.toNat_append_eq_add (0#25) (s.fslot ++ s.fcode)
  have hword : s.faultWord.toNat =
      2 ^ (25 + (2 + 4)) * (BitVec.ofBool s.faulted).toNat + (0#25 ++ (s.fslot ++ s.fcode)).toNat :=
    Encoding.toNat_append_eq_add (BitVec.ofBool s.faulted) (0#25 ++ (s.fslot ++ s.fcode))
  simp only [BitVec.toNat_ofBool, BitVec.toNat_ofNat] at hpad hword
  omega

theorem statusWord_eq_zero {s : State} (hbusy : s.busy = false) (hfound : s.found = false) (hcode : s.code = 0) :
    s.statusWord = 0 := by
  apply BitVec.eq_of_toNat_eq
  rw [statusWord_toNat, hbusy, hfound, hcode]
  rfl

theorem faultWord_eq_zero {s : State} (hcode : s.fcode = 0) (hslot : s.fslot = 0) (hfaulted : s.faulted = false) :
    s.faultWord = 0 := by
  apply BitVec.eq_of_toNat_eq
  rw [faultWord_toNat, hcode, hslot, hfaulted]
  rfl

/-- Settles O14: the step is `resetBlock`. -/
theorem resetRestoresTheBlock : Obligations.ResetRestoresTheBlock := by
  intro s ms hc hsched
  refine ⟨State.resetBlock { s with schedule := ms }, step_move hc hsched, rfl, rfl, statusWord_eq_zero rfl rfl rfl,
    faultWord_eq_zero rfl rfl rfl, rfl, rfl, rfl, rfl, rfl, rfl, rfl, rfl, fun i => ?_, rfl, rfl, rfl, rfl, rfl, rfl, rfl,
    rfl, rfl, rfl, rfl, rfl, rfl, rfl⟩
  cases i <;> rfl

/-- Settles O15, field by field. -/
theorem resetStateIsIdle : Obligations.ResetStateIsIdle := by
  refine ⟨rfl, statusWord_eq_zero rfl rfl rfl, faultWord_eq_zero rfl rfl rfl, fun i => ?_, rfl, rfl, rfl, rfl, rfl, rfl,
    rfl, rfl, rfl, rfl, rfl, rfl, rfl⟩
  cases i <;> rfl

/-! ## The time source (60_exceptions.md R153) and the settling wait (43_set_rate.md R104) -/

/-- What moves when the sequencer has no step and nothing is asked for. -/
theorem step_time {s : State} (halone : s.alone) (hen : s.seqEnabled = false) (hroom : s.nowUs.toNat + 1 < 2 ^ 64) :
    ∃ d, 1 ≤ d ∧ s.nowUs.toNat + d < 2 ^ 64 ∧
      step s = .next { s with nowUs := BitVec.ofNat 64 (s.nowUs.toNat + d), draws := s.draws + 1 } := by
  obtain ⟨d, hd, hlt, htime⟩ := State.timePasses_next hroom
  refine ⟨d, hd, hlt, ?_⟩
  rw [step_alone halone, State.autoStep, if_neg (by simp [hen]), htime]
  rfl

/-- Settles O59: a scheduled tick is an advance, and in `IDLE` and `HALTED` time passes by default. -/
theorem timeSourceSteps : Obligations.TimeSourceSteps := by
  intro s hc
  constructor
  · intro d ms hsched hd hroom
    rw [step_move hc hsched]
    exact if_pos (by simp only [State.canAdvance, hd, hroom, decide_true, Bool.and_self])
  · intro hsched hp hroom
    refine step_time ⟨hc, hsched⟩ ?_ hroom
    rcases hp with hp | hp <;> rw [State.seqEnabled, hp]

theorem settled_iff {s : State} : s.settled = true ↔ s.t0.toNat + 100 ≤ s.nowUs.toNat := decide_eq_true_iff

theorem seqEnabled_of_srDelay {s : State} (hp : s.phase = .srDelay) : s.seqEnabled = s.settled := by
  rw [State.seqEnabled, hp]

/-- The wait is over: `SR_DELAY` goes on. -/
theorem exec_srDelay_of_settled {s : State} {slot : BitVec 2} {i : SlotId} (hs : SlotId.ofBits slot = some i)
    (hp : s.phase = .srDelay) (hsettled : s.settled = true) :
    exec (.setRate slot) s = .next { s with phase := .srPostMux } := by
  simp only [exec, execSetRate, hs, hp, State.srDelay, hsettled, if_true]

/-- Settles O30: the sequencer has its step exactly when the wait is over; until then time passes. -/
theorem settlingWaitIsALowerBound : Obligations.SettlingWaitIsALowerBound := by
  intro s slot i hs hp hd halone
  refine ⟨fun hover => ?_, fun hwait hroom => step_time halone ?_ hroom⟩
  · have hsettled := settled_iff.mpr hover
    have hexec := exec_srDelay_of_settled hs hp hsettled
    refine ⟨hexec, ?_⟩
    rw [SetRate.step_alone_of_enabled halone (by rw [seqEnabled_of_srDelay hp, hsettled]) hd, hexec]
  · rw [seqEnabled_of_srDelay hp, ← Bool.not_eq_true, settled_iff]
    omega

/-! ## The host's accesses (10_state.md R19 to R23; 60_exceptions.md R151) -/

/-- Settles O56: a read at an offset is `ifaceRead` there, and the two flag words are the numbers of their flags. -/
theorem interfaceReadsGiveTheRegisters : Obligations.InterfaceReadsGiveTheRegisters := by
  intro s ms hc
  refine ⟨?registers, fun hsched => ⟨_, Exceptions.step_hostRead hc hsched rfl, statusWord_toNat s⟩,
    fun hsched => ⟨_, Exceptions.step_hostRead hc hsched rfl, faultWord_toNat s⟩⟩
  case registers =>
    simp only [List.forall_mem_cons, List.not_mem_nil, false_implies, implies_true, and_true]
    refine ⟨?_, ?_, ?_, ?_, ?_, ?_, ?_, ?_, ?_, ?_, ?_, ?_, ?_, ?_⟩ <;>
      exact fun hsched => Exceptions.step_hostRead hc hsched rfl

/-- No register is written at an offset from `0x14` on (10_state.md R19). -/
theorem ifaceWrite_of_readOnly {s : State} {off : Nat} (h : 0x14 ≤ off) (v : Word) : s.ifaceWrite off v = s := by
  simp only [State.ifaceWrite, show off ≠ 0x00 by omega, show off ≠ 0x04 by omega, show off ≠ 0x08 by omega,
    show off ≠ 0x0C by omega, show off ≠ 0x10 by omega, if_false]

/-- Settles O57: a write at an offset is `ifaceWrite` there. -/
theorem interfaceWritesReachOnlyArgs : Obligations.InterfaceWritesReachOnlyArgs := by
  intro s v ms hc
  refine ⟨?_, ?_, ?_, ?_, fun off hlo hhi h4 hsched => ?_⟩
  case refine_5 =>
    rw [Encoding.step_hostWrite hc hsched (Exceptions.ifaceOk_iff.mpr ⟨h4, hhi⟩), ifaceWrite_of_readOnly hlo]
  all_goals exact fun hsched => Encoding.step_hostWrite hc hsched rfl

/-- The address is in no bound PLL's register set (60_exceptions.md R151), register by register. -/
theorem notPllReg_iff {s : State} {a : Nat} :
    s.notPllReg a = true ↔ ∀ i f, (s.slot i).valid = true → s.fieldAddr i f ≠ a := by
  have hregs (i : SlotId) : a ∈ s.regAddrs (s.slot i).variant (s.slot i).base ↔ ∃ f, s.fieldAddr i f = a := by
    simp only [State.regAddrs, List.mem_map]
    exact ⟨fun ⟨f, _, h⟩ => ⟨f, h⟩, fun ⟨f, h⟩ => ⟨f, FieldId.mem_all f, h⟩⟩
  simp only [State.notPllReg, List.all_eq_true, SlotId.mem_all, forall_const, Bool.not_eq_true', Bool.and_eq_false_imp,
    List.contains_eq_mem, decide_eq_false_iff_not, hregs, not_exists]
  exact ⟨fun h i f hv => h i hv f, fun h i hv f => h i f hv⟩

theorem mayBusWrite_iff {s : State} {a : Nat} :
    s.mayBusWrite a = true ↔ s.busy = false ∧ a % 4 = 0 ∧ a < 2 ^ s.cfg.addrW ∧
      ∀ i f, (s.slot i).valid = true → s.fieldAddr i f ≠ a := by
  simp only [State.mayBusWrite, Bool.and_eq_true, Bool.not_eq_true', State.busOk_iff, notPllReg_iff, and_assoc]

/-- Settles O58: the host's liberty is `mayBusWrite`, and what it writes is one register. -/
theorem hostBusWritesAtItsLiberty : Obligations.HostBusWritesAtItsLiberty := by
  intro s a v ms hc hsched hbus free
  have hstep : step s = State.moveBusWrite { s with schedule := ms } a v := step_move hc hsched
  constructor
  · intro hfree
    have hmay : State.mayBusWrite { s with schedule := ms } a = true := mayBusWrite_iff.mpr hfree
    refine ⟨State.hostBusWrite { s with schedule := ms } a v, hstep.trans (if_pos hmay),
      Memory.readWord_writeWord_same hbus _ a v, fun b hb => ?_, rfl⟩
    refine Memory.readByte_writeWord_outside s.bus s.cfg.busEndian v ?_
    simp only [inRegister] at hb
    omega
  · intro hnot
    have hmay : ¬ State.mayBusWrite { s with schedule := ms } a = true := mt mayBusWrite_iff.mp hnot
    exact hstep.trans (if_neg hmay)

end Sys2Proof.Steps
end

section
/-! PROOFS. The check of the parameters against the rules (42_field_codec.md R78; 41_rate_lookup.md R72; 00_scope.md R10). -/

namespace Sys2Proof.ConfigRules

open Sys2Proof.Machine

/-! ## Layouts (42_field_codec.md R78) -/

theorem placed_iff {l : FieldLayout} : FieldLayout.placed l = true ↔ l.shift + l.width ≤ 32 ∧ l.off % 4 = 0 ∧ l.off < 2 ^ 32 := by
  simp [FieldLayout.placed, and_assoc]

/-- The masks of two fields inside a register are disjoint when no bit is in both. -/
theorem masks_disjoint_iff {l m : FieldLayout} (hl : l.shift + l.width ≤ 32) :
    fieldMask l &&& fieldMask m = 0 ↔ ∀ j, ¬ (FieldLayout.holdsBit l j ∧ FieldLayout.holdsBit m j) := by
  have hbit (j : Nat) : (fieldMask l &&& fieldMask m).getLsbD j = true ↔ FieldLayout.holdsBit l j ∧ FieldLayout.holdsBit m j := by
    simp only [BitVec.getLsbD_and, fieldMask_getLsbD, Bool.and_eq_true, decide_eq_true_eq, FieldLayout.holdsBit]
    omega
  constructor
  · intro h j
    rw [← hbit j, h]
    simp
  · intro h
    refine BitVec.eq_of_getLsbD_eq fun j _ => ?_
    rw [Bool.eq_false_iff.mpr fun hj => h j ((hbit j).mp hj)]
    simp

theorem apart_iff {l m : FieldLayout} (hl : l.shift + l.width ≤ 32) :
    FieldLayout.apart l m = true ↔ (l.off = m.off → ∀ j, ¬ (FieldLayout.holdsBit l j ∧ FieldLayout.holdsBit m j)) := by
  simp only [FieldLayout.apart, Bool.or_eq_true, bne_iff_ne, beq_iff_eq, masks_disjoint_iff hl, imp_iff_not_or, ne_eq]

/-- R78 items 1 to 4, field by field. -/
theorem variantLayout_wf_iff {l : VariantLayout} :
    VariantLayout.wf l = true ↔ (∀ f, widthOk f (l.get f).width = true) ∧ (∀ f, FieldLayout.placed (l.get f) = true) ∧
      ∀ f g, f ≠ g → FieldLayout.apart (l.get f) (l.get g) = true := by
  simp only [VariantLayout.wf, Bool.and_eq_true, List.all_eq_true, FieldId.mem_all, forall_const, Bool.or_eq_true,
    beq_iff_eq, or_iff_not_imp_left, forall_and, and_assoc, ne_eq]

theorem widths_iff {l : VariantLayout} :
    (∀ f, widthOk f (l.get f).width = true) ↔
      (∀ f ∈ [FieldId.pd, .dacpd, .dsmpd], (l.get f).width = 1) ∧ (l.get .frac).width = 24 ∧
        ∀ f ∈ [FieldId.fbdiv, .prediv, .postdiv], 1 ≤ (l.get f).width := by
  have hall : (∀ f, widthOk f (l.get f).width = true) ↔ ∀ f ∈ FieldId.all, widthOk f (l.get f).width = true :=
    ⟨fun h f _ => h f, fun h f => h f (FieldId.mem_all f)⟩
  rw [hall]
  simp only [FieldId.all, List.forall_mem_cons, List.not_mem_nil, false_implies, implies_true, and_true, widthOk, beq_iff_eq,
    decide_eq_true_eq]
  tauto

theorem muxOk_iff {c : Config} :
    Config.muxOk c = true ↔ (c.auxMux.off % 4 = 0 ∧ c.auxMux.off < 2 ^ 32) ∧
      1 ≤ c.auxMux.width ∧ c.auxMux.shift + c.auxMux.width ≤ 32 ∧ c.selRefDiv2 ≠ c.selPllDiv2 ∧
      c.selRefDiv2.toNat < 2 ^ c.auxMux.width ∧ c.selPllDiv2.toNat < 2 ^ c.auxMux.width := by
  simp only [Config.muxOk, Bool.and_eq_true, placed_iff, decide_eq_true_eq, bne_iff_ne]
  tauto

/-- The check of the layouts is that of R78. -/
theorem layoutRules_iff {c : Config} :
    Config.LayoutRules c ↔ (∀ v, VariantLayout.wf (c.layout.get v) = true) ∧ Config.muxOk c = true := by
  simp only [variantLayout_wf_iff, widths_iff, muxOk_iff]
  constructor
  · rintro ⟨hone, hfrac, hnumber, hinside, hoff, hmuxOff, hapart, hmux⟩
    refine ⟨fun v => ⟨⟨hone v, hfrac v, hnumber v⟩, fun f => placed_iff.mpr ⟨hinside v f, hoff v f⟩, fun f g hne => ?_⟩,
      hmuxOff, hmux⟩
    exact (apart_iff (hinside v f)).mpr (hapart v f g hne)
  · rintro ⟨hlayout, hmuxOff, hmux⟩
    have hplaced (v : Variant) (f : FieldId) := placed_iff.mp ((hlayout v).2.1 f)
    exact {
      oneBit := fun v => let ⟨⟨hone, _, _⟩, _⟩ := hlayout v; hone
      fracWidth := fun v => let ⟨⟨_, hfrac, _⟩, _⟩ := hlayout v; hfrac
      numberWidth := fun v => let ⟨⟨_, _, hnumber⟩, _⟩ := hlayout v; hnumber
      inside := fun v f => (hplaced v f).1
      offset := fun v f => (hplaced v f).2
      muxOffset := hmuxOff
      apart := fun v f g hne => (apart_iff (hplaced v f).1).mp ((hlayout v).2.2 f g hne)
      mux := hmux }

/-! ## Rate tables (41_rate_lookup.md R72) -/

/-- The targets are distinct when no two indices have the same one (R72 item 2). -/
theorem targetsDistinct_iff {es : List RateEntry} :
    targetsDistinct es = true ↔ ∀ (m n : Nat) (d e : RateEntry), es[m]? = some d → es[n]? = some e →
      d.target = e.target → m = n := by
  have hnodup : targetsDistinct es = true ↔ (es.map RateEntry.target).Nodup := by
    induction es with
    | nil => simp [targetsDistinct]
    | cons e es ih =>
      simp only [targetsDistinct, Bool.and_eq_true, List.all_eq_true, bne_iff_ne, ih, List.map_cons, List.nodup_cons,
        List.mem_map, not_exists, not_and, ne_eq]
  rw [hnodup]
  constructor
  · intro h m n d e hd he hde
    obtain ⟨hlt, -⟩ := List.getElem?_eq_some_iff.mp hd
    refine (List.getElem?_inj (by simpa using hlt) h).mp ?_
    rw [List.getElem?_map, List.getElem?_map, hd, he, Option.map_some, Option.map_some, hde]
  · intro h
    rw [List.nodup_iff_injective_getElem]
    rintro ⟨m, hm⟩ ⟨n, hn⟩ hmn
    have hm' : m < es.length := by simpa using hm
    have hn' : n < es.length := by simpa using hn
    exact Fin.ext (h m n es[m] es[n] (List.getElem?_eq_getElem hm') (List.getElem?_eq_getElem hn') (by simpa using hmn))

theorem entryFrac_toNat (e : RateEntry) : (entryFrac e).toNat = if e.useFraction then e.frac.toNat else 0 := by
  unfold entryFrac
  split <;> rfl

/-- A post-divider is the power of two of its logarithm, or of nothing (R72 item 5). -/
theorem postdiv_eq_two_pow_iff {e : RateEntry} {k : Nat} :
    e.postdiv1.toNat = 2 ^ k ↔ e.postdiv1.toNat = 2 ^ entryShift e ∧ entryShift e = k := by
  constructor
  · intro h
    have hk : entryShift e = k := by rw [entryShift, h, Nat.log2_two_pow]
    exact ⟨hk ▸ h, hk⟩
  · rintro ⟨h, rfl⟩
    exact h

/-- The check of an entry is that of R72 items 3 to 7. -/
theorem entryRules_iff {c : Config} {v : Variant} {e : RateEntry} :
    Config.EntryRules c v e ↔ RateEntry.wf (c.layout.get v) (c.tableRefHz.get v) e = true := by
  have hnum : (c.tableRefHz.get v).toNat * (e.fbdiv.toNat * 2 ^ 24 + if e.useFraction then e.frac.toNat else 0) =
      recalcNum (c.tableRefHz.get v).toNat e.fbdiv.toNat (entryFrac e).toNat := by
    rw [entryFrac_toNat]
    rfl
  simp only [RateEntry.wf, Bool.and_eq_true, Bool.or_eq_true, decide_eq_true_eq, beq_iff_eq, RecalcRate.recalc_eq_div]
  constructor
  · rintro ⟨hprediv, hfbdiv, hfrac, k, hk, hkw, hfits, htarget⟩
    obtain ⟨hpost, rfl⟩ := postdiv_eq_two_pow_iff.mp hk
    rw [hnum] at hfits htarget
    refine ⟨⟨⟨⟨⟨⟨hprediv, hfbdiv⟩, hpost⟩, hkw⟩, ?_⟩, hfits⟩, htarget⟩
    cases hf : e.useFraction
    · exact .inr (hfrac hf)
    · exact .inl rfl
  · rintro ⟨⟨⟨⟨⟨⟨hprediv, hfbdiv⟩, hpost⟩, hkw⟩, hfrac⟩, hfits⟩, htarget⟩
    rw [← hnum] at hfits htarget
    exact ⟨hprediv, hfbdiv, fun hf => hfrac.resolve_left (by simp [hf]), entryShift e, hpost, hkw, hfits, htarget⟩

/-- The check of the tables is that of R72. -/
theorem tableRules_iff {c : Config} : Config.TableRules c ↔ ∀ v, Config.tableOk c v = true := by
  simp only [Config.tableOk, Bool.and_eq_true, decide_eq_true_eq, List.all_eq_true, ← entryRules_iff, targetsDistinct_iff]
  constructor
  · rintro ⟨hlength, hdistinct, hentries⟩ v
    exact ⟨⟨hlength v, hdistinct v⟩, hentries v⟩
  · intro h
    exact ⟨fun v => (h v).1.1, fun v => (h v).1.2, fun v => (h v).2⟩

/-! ## The known members (00_scope.md R10) and the whole check -/

theorem hasKnownMembers_iff {c : Config} : Config.HasKnownMembers c ↔ Config.knownMembers c = true := by
  simp only [Config.knownMembers, Bool.and_eq_true, List.any_eq_true, beq_iff_eq, Bool.not_eq_true', and_assoc]
  exact ⟨fun ⟨ha, hc⟩ => ⟨ha, hc⟩, fun ⟨ha, hc⟩ => ⟨ha, hc⟩⟩

theorem rules_iff_wf {c : Config} :
    (Config.LayoutRules c ∧ Config.TableRules c ∧ Config.HasKnownMembers c) ↔ Config.wf c = true := by
  simp only [layoutRules_iff, tableRules_iff, hasKnownMembers_iff, Config.wf, Bool.and_eq_true, List.all_eq_true,
    Variant.mem_all, forall_const, and_assoc]

/-- Settles O16: the check that the first step makes is that of the rules. -/
theorem firstStepChecksTheParameters : Obligations.FirstStepChecksTheParameters := by
  intro s hc
  rw [rules_iff_wf]
  have hstep : step s = s.checkConfig := if_neg (Bool.eq_false_iff.mp hc)
  exact ⟨fun hwf => hstep.trans (if_pos hwf), fun hwf => hstep.trans (if_neg hwf)⟩

end Sys2Proof.ConfigRules
end

section
/-! PROOFS. The `EXEC` step of `CREATE` (45_instance_create.md R131 to R135), of `FIND_RATE` for a rate of the table
(41_rate_lookup.md R75), and of the codec commands (42_field_codec.md R85 to R87). -/

namespace Sys2Proof.Create

open Sys2Proof.Machine

/-! ## Addresses (45_instance_create.md R134, R135) -/

theorem addrOk_iff {s : State} {v : Variant} {base : DWord} {auxp : Bool} {aux : DWord} :
    s.addrOk v base auxp aux = true ↔ s.addressesFit v base auxp aux := by
  simp only [State.addrOk, State.addressesFit, Bool.and_eq_true, beq_iff_eq, List.all_eq_true, FieldId.mem_all, forall_const,
    decide_eq_true_eq, Bool.or_eq_true, Bool.not_eq_true', and_assoc]
  cases auxp <;> simp

theorem meets_iff {xs ys : List Nat} : meets xs ys = true ↔ ∃ x ∈ xs, x ∈ ys := by
  simp [meets]

theorem mem_regAddrs {s : State} {v : Variant} {base : DWord} {a : Nat} :
    a ∈ s.regAddrs v base ↔ ∃ f, base.toNat + (s.layoutOf v f).off = a := by
  simp only [State.regAddrs, List.mem_map]
  exact ⟨fun ⟨f, _, h⟩ => ⟨f, h⟩, fun ⟨f, h⟩ => ⟨f, FieldId.mem_all f, h⟩⟩

theorem mem_muxAddrs {s : State} {auxp : Bool} {aux : DWord} {a : Nat} :
    a ∈ s.muxAddrs auxp aux ↔ auxp = true ∧ aux.toNat + s.cfg.auxMux.off = a := by
  cases auxp <;> simp [State.muxAddrs, eq_comm]

theorem aliases_iff {s : State} {i : SlotId} {v : Variant} {base : DWord} {auxp : Bool} {aux : DWord} :
    s.aliases i v base auxp aux = true ↔ s.addressesCollide i v base auxp aux := by
  have hown : meets (s.muxAddrs auxp aux) (s.regAddrs v base) = true ↔
      auxp = true ∧ ∃ f, aux.toNat + s.cfg.auxMux.off = base.toNat + (s.layoutOf v f).off := by
    simp only [meets_iff, mem_muxAddrs, mem_regAddrs]
    exact ⟨fun ⟨_, ⟨hp, ha⟩, f, hf⟩ => ⟨hp, f, ha.trans hf.symm⟩, fun ⟨hp, f, h⟩ => ⟨_, ⟨hp, h⟩, f, rfl⟩⟩
  have hregs (j : SlotId) : meets (s.regAddrs v base) (s.regAddrs (s.slot j).variant (s.slot j).base) = true ↔
      ∃ f g, base.toNat + (s.layoutOf v f).off = s.fieldAddr j g := by
    simp only [meets_iff, mem_regAddrs]
    exact ⟨fun ⟨_, ⟨f, hf⟩, g, hg⟩ => ⟨f, g, hf.trans hg.symm⟩, fun ⟨f, g, h⟩ => ⟨_, ⟨f, h⟩, g, rfl⟩⟩
  have hmux (j : SlotId) : meets (s.regAddrs v base) (s.muxAddrs (s.slot j).auxp (s.slot j).aux) = true ↔
      (s.slot j).auxp = true ∧ ∃ f, base.toNat + (s.layoutOf v f).off = s.muxAddr j := by
    simp only [meets_iff, mem_muxAddrs, mem_regAddrs]
    exact ⟨fun ⟨_, ⟨f, hf⟩, hp, ha⟩ => ⟨hp, f, hf.trans ha.symm⟩, fun ⟨hp, f, h⟩ => ⟨_, ⟨f, h⟩, hp, rfl⟩⟩
  have hother (j : SlotId) : meets (s.muxAddrs auxp aux) (s.regAddrs (s.slot j).variant (s.slot j).base) = true ↔
      auxp = true ∧ ∃ g, aux.toNat + s.cfg.auxMux.off = s.fieldAddr j g := by
    simp only [meets_iff, mem_muxAddrs, mem_regAddrs]
    exact ⟨fun ⟨_, ⟨hp, ha⟩, g, hg⟩ => ⟨hp, g, ha.trans hg.symm⟩, fun ⟨hp, g, h⟩ => ⟨_, ⟨hp, h⟩, g, rfl⟩⟩
  simp only [State.aliases, State.addressesCollide, Bool.or_eq_true, List.any_eq_true, SlotId.mem_all, true_and,
    Bool.and_eq_true, bne_iff_ne, beq_iff_eq, hown, hregs, hmux, hother, and_assoc, or_assoc]

/-! ## The `EXEC` step -/

theorem exec_create_of_exec {s : State} {slot var : BitVec 2} {auxp : Bool} {i : SlotId}
    (hs : SlotId.ofBits slot = some i) (hp : s.phase = .exec) :
    exec (.create slot var auxp) s = .next (createEffect i var auxp s) := by
  simp only [exec, execCreate, hs]
  exact State.decodeThenExec_eq_next.mpr (.inr ⟨hp, rfl⟩)

/-- The checks of `CREATE` of one of the three variants, in the rules' own terms. -/
theorem createEffect_of_variant {s : State} {var : BitVec 2} {auxp : Bool} {i : SlotId} {v : Variant}
    {base aux : DWord} (hv : Variant.ofBits var = some v) (hbase : s.latch.operandLo = base)
    (haux : s.latch.operandHi = aux) :
    ((s.slot i).valid = true → createEffect i var auxp s = s.raise .recreate) ∧
    ((s.slot i).valid = false → ¬ s.addressesFit v base auxp aux → createEffect i var auxp s = s.raise .addressRange) ∧
    ((s.slot i).valid = false → s.addressesFit v base auxp aux → s.addressesCollide i v base auxp aux →
      createEffect i var auxp s = s.raise .addressAlias) ∧
    ((s.slot i).valid = false → s.addressesFit v base auxp aux → ¬ s.addressesCollide i v base auxp aux →
      createEffect i var auxp s = (s.bind i v base auxp aux).finish .ok 0 0 0 false) := by
  simp only [← addrOk_iff, ← aliases_iff, Bool.not_eq_true, createEffect, hv, hbase, haux]
  refine ⟨fun h1 => ?_, fun h1 h2 => ?_, fun h1 h2 h3 => ?_, fun h1 h2 h3 => ?_⟩
  · simp only [h1, if_true]
  · simp only [h1, h2, Bool.false_eq_true, if_false, Bool.not_false, if_true]
  · simp only [h1, h2, h3, Bool.false_eq_true, if_false, Bool.not_true, if_true]
  · simp only [h1, h2, h3, Bool.false_eq_true, if_false, Bool.not_true]

/-- Settles O17, check by check. -/
theorem createFollowsItsChecks : Obligations.CreateFollowsItsChecks := by
  intro s slot var auxp i hs hp base aux faults
  rw [exec_create_of_exec hs hp]
  refine ⟨fun hvar => ?_, fun v hv => ?_⟩
  · have hnone : createEffect i var auxp s = s.finishError .invalidVariant := by
      simp only [createEffect, (Variant.ofBits_eq_none var).mpr hvar]
    rw [hnone]
    rfl
  · obtain ⟨hbound, hrange, halias, hbind⟩ := createEffect_of_variant (auxp := auxp) (i := i) hv (s := s) rfl rfl
    exact ⟨fun h1 => congrArg _ (hbound h1), fun h1 h2 => congrArg _ (hrange h1 h2),
      fun h1 h2 h3 => congrArg _ (halias h1 h2 h3), fun h1 h2 h3 => congrArg _ (hbind h1 h2 h3)⟩

/-! ## `FIND_RATE` of a rate of the table (41_rate_lookup.md R75) -/

/-- Settles O18: the search of a table with distinct targets finds the entry. -/
theorem findRateGivesTheIndex : Obligations.FindRateGivesTheIndex := by
  intro s var v n e hv hp hc hn ht
  have hfound : findRate (s.cfg.rateTable.get v) s.latch.operandLo = some n :=
    findRate_of_getElem (SetRate.targetsDistinct_of_wf hc v) hn ht
  rw [RateLookup.exec_findRate_of_exec hp, RateLookup.findRateEffect_of_variant hv, hfound]
  rfl

/-! ## The codec commands (42_field_codec.md R85 to R87) -/

theorem codecEffect_of_variant {var : BitVec 2} {v : Variant} (hv : Variant.ofBits var = some v) (f : FieldId)
    (g : FieldLayout → State → State) (s : State) : codecEffect var f g s = g (s.layoutOf v f) s := by
  simp only [codecEffect, hv]

/-- Settles O21, by the layout of the field, its mask as a number. -/
theorem fieldLayoutReportsTheLayout : Obligations.FieldLayoutReportsTheLayout := by
  intro s var fld v f hv hf hp l
  rw [FieldCodec.exec_fieldLayout_of_exec hf hp, codecEffect_of_variant hv, ← Nat.shiftLeft_eq]
  rfl

/-- The number in the bits of a field (R81), whatever the field's place. -/
theorem extractField_toNat (l : FieldLayout) (raw : Word) :
    (extractField raw (fieldMask l) l.shift).toNat = raw.toNat / 2 ^ l.shift % 2 ^ l.width := by
  apply Nat.eq_of_testBit_eq
  intro j
  rw [BitVec.testBit_toNat, FieldCodec.extractField_fieldMask_getLsbD, Nat.testBit_mod_two_pow, Nat.testBit_div_two_pow,
    BitVec.testBit_toNat, Nat.add_comm]

/-- Settles O22, by the number in the field's bits. -/
theorem fieldExtractGivesTheFieldsNumber : Obligations.FieldExtractGivesTheFieldsNumber := by
  intro s var fld v f hv hf hp l _
  rw [FieldCodec.exec_fieldExtract_of_exec hf hp, codecEffect_of_variant hv, ← extractField_toNat, BitVec.ofNat_toNat,
    BitVec.setWidth_eq]
  rfl

/-- Settles O23: the check of the value, and the bits of the register after the insert. -/
theorem fieldInsertReplacesTheFieldOnly : Obligations.FieldInsertReplacesTheFieldOnly := by
  intro s var fld v f hv hf hp l
  rw [FieldCodec.exec_fieldInsert_of_exec hf hp, codecEffect_of_variant hv]
  refine ⟨fun hfits => ⟨insertField s.latch.arg0 (fieldMask l) l.shift s.latch.arg1, ?_, fun j hj => ?_⟩, fun hbig => ?_⟩
  · exact congrArg _ (if_neg (Nat.not_le.mpr hfits))
  · rw [insertField_getLsbD, fieldMask_getLsbD]
    by_cases hin : l.shift ≤ j ∧ j < l.shift + l.width
    · obtain ⟨hlo, hhi⟩ := hin
      simp [hj, hlo, hhi]
    · rw [if_neg hin, if_neg]
      simp only [Bool.and_eq_true, decide_eq_true_eq]
      tauto
  · exact congrArg _ (if_pos hbig)

end Sys2Proof.Create
end

section
/-! PROOFS. The invariant of the machine (10_state.md, 20_memory.md, 45_instance_create.md): reset has it, every step of every
agent keeps it, component by component. -/

namespace Sys2Proof.Invariant

open Sys2Proof.Machine Sys2Proof.Effects

/-! ## The bus (20_memory.md R41) -/

/-- Whatever a step does to the bus, it keeps the canonical form. -/
theorem wf_of_busChange {s : State} {b : Memory} (hwf : s.bus.wf = true) (h : Hazards.BusChange s b) : b.wf = true := by
  cases h with
  | kept hbus => exact hbus ▸ hwf
  | host a v hmay hbus => exact hbus ▸ Memory.writeWord_wf hwf _ _ _
  | mux j sel hslot hphase hok hbus => exact hbus ▸ State.rmw_bus_wf hwf _ _ _
  | power j x hslot hphase hbus => exact hbus ▸ State.rmw_bus_wf hwf _ _ _
  | write j g p e hslot hstep hentry hbus => exact hbus ▸ State.rmw_bus_wf hwf _ _ _

/-- Settles O46, by what a step can do to the bus. -/
theorem stepKeepsTheBusCanonical : Obligations.StepKeepsTheBusCanonical :=
  fun _ _ hwf hstep => wf_of_busChange hwf (Hazards.step_busEffect hstep).change

/-! ## The latch (10_state.md R24) -/

theorem latchOk_of_latch_eq {s t : State} (h : s.latchOk = true) (hlatch : t.latch = s.latch) : t.latchOk = true := by
  rwa [State.latchOk, hlatch]

theorem latchOk_of_latch_zero {t : State} (hlatch : t.latch = Latch.zero) : t.latchOk = true := by
  rw [State.latchOk, hlatch]
  decide

theorem latchOk_accept (s : State) (w : Word) : (s.accept w).latchOk = true := by
  simp [State.latchOk, State.latchOf]

theorem latchOk_of_step {s t : State} (hlatch : s.latchOk = true) (h : StepEffect s t) : t.latchOk = true := by
  cases h with
  | command ms hc hen hd h => exact latchOk_of_latch_eq hlatch h.frame.latch
  | accept w ms hc hsched hb => exact latchOk_accept _ w
  | reset ms hc hsched => exact latchOk_of_latch_zero rfl
  | config | illegal | time | look | whileBusy | args | busWrite => exact hlatch

/-! ## `BUSY`, `FAULT` and the codes (10_state.md R22, R23) -/

theorem controlOk_iff {s : State} :
    s.controlOk = true ↔ (s.busy = true ↔ s.phase ≠ .idle) ∧ (s.faulted = true ↔ s.phase = .halted) := by
  rw [State.controlOk, Bool.and_eq_true]
  exact and_congr (by rw [beq_iff_eq, Bool.eq_iff_iff, bne_iff_ne]) (by rw [beq_iff_eq, Bool.eq_iff_iff, beq_iff_eq])

theorem codesOk_iff {s : State} :
    s.codesOk = true ↔ s.code.toNat ≤ 4 ∧ s.fcode.toNat ≤ 9 ∧ (s.faulted = true → s.fcode ≠ 0) ∧
      (s.faulted = false → s.fcode = 0 ∧ s.fslot = 0) := by
  cases hf : s.faulted <;> simp [State.codesOk, hf, and_assoc]

theorem statusCode_le (c : StatusCode) : c.bits.toNat ≤ 4 := by cases c <;> decide

theorem faultCode_le (f : FaultCode) : f.bits.toNat ≤ 9 ∧ f.bits ≠ 0 := by cases f <;> decide

/-- A command runs: the phase is neither `IDLE` nor `HALTED`. -/
def Running (p : Phase) : Prop := p ≠ .idle ∧ p ≠ .halted

theorem running_of_rank {p : Phase} (h : 1 ≤ p.rank) : Running p := by
  constructor <;> rintro rfl <;> simp [Phase.rank] at h

theorem running_of_seqEnabled {s : State} (h : s.seqEnabled = true) : Running s.phase := by
  constructor <;> intro hp <;> simp [State.seqEnabled, hp] at h

/-- `t` has the flags of `s`: `BUSY`, `FAULT` and `STATUS.CODE`. -/
structure SameFlags (s t : State) : Prop where
  busy : t.busy = s.busy := by rfl
  faulted : t.faulted = s.faulted := by rfl
  code : t.code = s.code := by rfl
  fcode : t.fcode = s.fcode := by rfl
  fslot : t.fslot = s.fslot := by rfl

/-- How the flags and the phase stand to each other after a step of a command: a fault is raised, the command finishes, or it
runs on. -/
inductive FlagEffect (s t : State) : Prop
  | raised (f : FaultCode) (ht : t = s.raise f)
  | finished (u : State) (hu : SameFlags s u) (st : StatusCode) (r0 r1 r2 : Word) (fd : Bool)
      (ht : t = u.finish st r0 r1 r2 fd)
  | runs (hsame : SameFlags s t) (hrun : Running t.phase)

theorem rank_of_writeStep_next : ∀ w ∈ writeSteps, 5 ≤ w.2.2.rank ∧ w.2.2.rank ≤ 10 := by decide

theorem rank_of_readStep_next : ∀ w ∈ RecalcRate.readSteps, 13 ≤ w.2.2.rank := by decide

theorem flagEffect_of_effect {s t : State} {c : Instr} (h : CmdEffect s c t) (hs : Running s.phase) : FlagEffect s t := by
  cases h with
  | raise _ f hp => exact .raised f rfl
  | finish _ st r0 r1 r2 fd hp => exact .finished s {} st r0 r1 r2 fd rfl
  | bind var auxp v hs hp hfree haddr halias => exact .finished _ {} .ok 0 0 0 false rfl
  | toExec | toLookup | preMux | pdOn | pdOffToDelay | pdOffToRead | delay | postMux | toRead =>
    exact .runs {} ⟨nofun, nofun⟩
  | lookup n hs hp hn haux => exact .runs {} (by dsimp only; split <;> exact ⟨nofun, nofun⟩)
  | write hs hstep he hok =>
    exact .runs {} (running_of_rank (Nat.le_trans (by decide) (rank_of_writeStep_next _ hstep).1))
  | spin hp hsettled => exact .runs {} hs
  | @read slot i c f p hs hc hstep hok =>
    exact .runs (by cases f <;> exact {}) (running_of_rank (Nat.le_trans (by decide) (rank_of_readStep_next _ hstep)))

theorem controlOk_raise (s : State) (f : FaultCode) : (s.raise f).controlOk = true := rfl

theorem codesOk_raise {s : State} (h : s.codesOk = true) (f : FaultCode) : (s.raise f).codesOk = true := by
  obtain ⟨hcode, hle, hfaulted, -⟩ := codesOk_iff.mp h
  obtain ⟨hf, hf0⟩ := faultCode_le f
  refine codesOk_iff.mpr ⟨hcode, ?_, fun _ => ?_, nofun⟩ <;> rw [State.raise_fcode]
  · split <;> assumption
  · split
    · exact hfaulted ‹_›
    · exact hf0

/-- The flags after a step of a command, from those before. -/
theorem FlagEffect.ok {s t : State} (h : FlagEffect s t) (hrun : Running s.phase) (hcontrol : s.controlOk = true)
    (hcodes : s.codesOk = true) : t.controlOk = true ∧ t.codesOk = true := by
  obtain ⟨hbusy, hfaulted⟩ := controlOk_iff.mp hcontrol
  have hnot : s.faulted = false := Bool.eq_false_iff.mpr fun hf => hrun.2 (hfaulted.mp hf)
  obtain ⟨hcode, hfcode, -, hclear⟩ := codesOk_iff.mp hcodes
  cases h with
  | raised f ht => exact ht ▸ ⟨controlOk_raise s f, codesOk_raise hcodes f⟩
  | finished u hu st r0 r1 r2 fd ht =>
    subst ht
    have hu0 : u.faulted = false := hu.faulted.trans hnot
    constructor
    · exact controlOk_iff.mpr (by simp [hu0])
    · exact codesOk_iff.mpr (by simp [hu0, statusCode_le, hu.fcode, hu.fslot, hclear hnot])
  | runs hsame hrun' =>
    constructor
    · rw [controlOk_iff, hsame.busy, hsame.faulted, hnot, hbusy]
      simp [hrun.1, hrun'.1, hrun'.2]
    · rw [codesOk_iff, hsame.code, hsame.fcode, hsame.faulted, hsame.fslot]
      exact codesOk_iff.mp hcodes

theorem flagsOk_of_step {s t : State} (hcontrol : s.controlOk = true) (hcodes : s.codesOk = true) (h : StepEffect s t) :
    t.controlOk = true ∧ t.codesOk = true := by
  cases h with
  | @command t ms c hc hen hd h =>
    have hrun := running_of_seqEnabled hen
    exact (flagEffect_of_effect h hrun).ok hrun hcontrol hcodes
  | accept w ms hc hsched hb =>
    obtain ⟨hbusy, hfaulted⟩ := controlOk_iff.mp hcontrol
    have hidle : s.phase = .idle := not_not.mp (mt hbusy.mpr (by simp [hb]))
    have hnot : s.faulted = false := Bool.eq_false_iff.mpr (mt hfaulted.mp (by simp [hidle]))
    obtain ⟨-, hfcode, -, hclear⟩ := codesOk_iff.mp hcodes
    exact ⟨controlOk_iff.mpr (by simp [hnot]), codesOk_iff.mpr (by simp [hnot, hclear hnot])⟩
  | illegal ms hc hp hd => exact ⟨controlOk_raise _ _, codesOk_raise hcodes _⟩
  | whileBusy w ms hc hsched hb => exact ⟨controlOk_raise _ _, codesOk_raise hcodes _⟩
  | reset ms hc hsched => exact ⟨rfl, rfl⟩
  | config | time | look | args | busWrite => exact ⟨hcontrol, hcodes⟩

/-! ## The slots (45_instance_create.md R134, R135) -/

/-- A bound slot's addresses fit and are apart from each other. -/
theorem slotPlaced_iff {s : State} {i : SlotId} :
    s.slotPlaced i = true ↔ ((s.slot i).valid = true →
      s.addrOk (s.slot i).variant (s.slot i).base (s.slot i).auxp (s.slot i).aux = true ∧
      meets (s.muxAddrs (s.slot i).auxp (s.slot i).aux) (s.regAddrs (s.slot i).variant (s.slot i).base) = false ∧
      ((s.slot i).auxp = false → (s.slot i).aux = 0)) := by
  simp only [State.slotPlaced, Bool.or_eq_true, Bool.and_eq_true, Bool.not_eq_true', beq_iff_eq, and_assoc]
  cases (s.slot i).valid <;> cases (s.slot i).auxp <;> simp

theorem slotsApart_iff {s : State} {i j : SlotId} :
    s.slotsApart i j = true ↔ (i ≠ j → (s.slot i).valid = true → (s.slot j).valid = true →
      (s.slot i).base ≠ (s.slot j).base ∧
      meets (s.regAddrs (s.slot i).variant (s.slot i).base) (s.regAddrs (s.slot j).variant (s.slot j).base) = false ∧
      meets (s.regAddrs (s.slot i).variant (s.slot i).base) (s.muxAddrs (s.slot j).auxp (s.slot j).aux) = false) := by
  simp only [State.slotsApart, Bool.or_eq_true, Bool.and_eq_true, Bool.not_eq_true', beq_iff_eq, bne_iff_ne, and_assoc]
  by_cases hij : i = j <;> cases (s.slot i).valid <;> cases (s.slot j).valid <;> simp [hij]

theorem slotsOk_iff {s : State} :
    s.slotsOk = true ↔ (∀ i, s.slotPlaced i = true) ∧ ∀ i j, s.slotsApart i j = true := by
  simp only [State.slotsOk, Bool.and_eq_true, List.all_eq_true, SlotId.mem_all, forall_const]

theorem meets_comm (xs ys : List Nat) : meets xs ys = meets ys xs := by
  rw [Bool.eq_iff_iff, Create.meets_iff, Create.meets_iff]
  exact ⟨fun ⟨x, hx, hy⟩ => ⟨x, hy, hx⟩, fun ⟨x, hx, hy⟩ => ⟨x, hy, hx⟩⟩

/-- What `aliases` leaves out when it is false: the new addresses meet neither each other nor a bound slot's. -/
theorem aliases_eq_false {s : State} {i : SlotId} {v : Variant} {base : DWord} {auxp : Bool} {aux : DWord}
    (h : s.aliases i v base auxp aux = false) :
    meets (s.muxAddrs auxp aux) (s.regAddrs v base) = false ∧
    ∀ j, j ≠ i → (s.slot j).valid = true → base ≠ (s.slot j).base ∧
      meets (s.regAddrs v base) (s.regAddrs (s.slot j).variant (s.slot j).base) = false ∧
      meets (s.regAddrs v base) (s.muxAddrs (s.slot j).auxp (s.slot j).aux) = false ∧
      meets (s.muxAddrs auxp aux) (s.regAddrs (s.slot j).variant (s.slot j).base) = false := by
  simp only [State.aliases, Bool.or_eq_false_iff, List.any_eq_false, SlotId.mem_all, forall_const, Bool.and_eq_true,
    bne_iff_ne, Bool.or_eq_true, not_and, not_or, Bool.not_eq_true, beq_eq_false_iff_ne, ne_eq] at h
  obtain ⟨hown, hothers⟩ := h
  refine ⟨hown, fun j hj hv => ?_⟩
  obtain ⟨⟨⟨hbase, hregs⟩, hmux⟩, hother⟩ := hothers j ⟨hj, hv⟩
  exact ⟨hbase, hregs, hmux, hother⟩

/-- The binding of a slot whose addresses pass the checks of `CREATE` keeps the bound slots placed and apart. -/
theorem slotsOk_bind {s : State} {i : SlotId} {v : Variant} {base : DWord} {auxp : Bool} {aux : DWord}
    (hslots : s.slotsOk = true) (haddr : s.addrOk v base auxp aux = true)
    (halias : s.aliases i v base auxp aux = false) : (s.bind i v base auxp aux).slotsOk = true := by
  obtain ⟨hplaced, hapart⟩ := slotsOk_iff.mp hslots
  obtain ⟨hown, hothers⟩ := aliases_eq_false halias
  let bound : Slot := { valid := true, variant := v, base := base, auxp := auxp, aux := if auxp then aux else 0 }
  have hnew : (s.bind i v base auxp aux).slot i = bound := PerSlot.get_set_same _ _ _
  have hold (j : SlotId) (hj : j ≠ i) : (s.bind i v base auxp aux).slot j = s.slot j := PerSlot.get_set_other _ _ hj
  have hregs : (s.bind i v base auxp aux).regAddrs = s.regAddrs := rfl
  have hmuxs : (s.bind i v base auxp aux).muxAddrs = s.muxAddrs := rfl
  have haddrs : (s.bind i v base auxp aux).addrOk = s.addrOk := rfl
  have hmux : s.muxAddrs auxp (if auxp then aux else 0) = s.muxAddrs auxp aux := by cases auxp <;> rfl
  have hfit : s.addrOk v base auxp (if auxp then aux else 0) = true := by
    rw [Create.addrOk_iff] at haddr ⊢
    cases auxp
    · exact ⟨haddr.1, haddr.2.1, nofun⟩
    · exact haddr
  refine slotsOk_iff.mpr ⟨fun j => slotPlaced_iff.mpr fun hv => ?_, fun j k => slotsApart_iff.mpr fun hne hj hk => ?_⟩ <;>
    simp only [hregs, hmuxs, haddrs]
  · by_cases hji : j = i
    · subst hji
      simp only [hnew, bound, hmux]
      exact ⟨hfit, hown, fun ha => by simp [ha]⟩
    · rw [hold j hji] at hv ⊢
      exact slotPlaced_iff.mp (hplaced j) hv
  · by_cases hji : j = i
    · subst hji
      rw [hold k hne.symm] at hk ⊢
      simp only [hnew, bound]
      obtain ⟨hbase, h1, h2, -⟩ := hothers k hne.symm hk
      exact ⟨hbase, h1, h2⟩
    · rw [hold j hji] at hj ⊢
      by_cases hki : k = i
      · subst hki
        simp only [hnew, bound, hmux]
        obtain ⟨hbase, h1, -, h3⟩ := hothers j hji hj
        exact ⟨hbase.symm, meets_comm _ _ ▸ h1, meets_comm _ _ ▸ h3⟩
      · rw [hold k hki] at hk ⊢
        exact slotsApart_iff.mp (hapart j k) hne hj hk

theorem slotsOk_of_slots_eq {s t : State} (h : s.slotsOk = true) (hslots : t.slots = s.slots) (hcfg : t.cfg = s.cfg) :
    t.slotsOk = true := by
  have heq : t.slotsOk = ({ s with slots := t.slots, cfg := t.cfg } : State).slotsOk := rfl
  rw [heq, hslots, hcfg]
  exact h

theorem slotsOk_of_effect {s t : State} {c : Instr} (hslots : s.slotsOk = true) (h : CmdEffect s c t) :
    t.slotsOk = true := by
  have hcfg := h.frame.cfg
  have hframe := h.frame.slots
  cases h with
  | bind var auxp v hs hp hfree haddr halias => exact slotsOk_bind hslots haddr halias
  | read hs hc hstep hok =>
    refine slotsOk_of_slots_eq hslots (hframe.slots_eq ?_) hcfg
    rintro slot var auxp rfl
    simp at hc
  | raise | finish | toExec | toLookup | lookup | preMux | pdOn | write | pdOffToDelay | pdOffToRead | delay | spin |
    postMux | toRead => exact slotsOk_of_slots_eq hslots rfl rfl

theorem slotsOk_of_step {s t : State} (hslots : s.slotsOk = true) (h : StepEffect s t) : t.slotsOk = true := by
  cases h with
  | command ms hc hen hd h => exact slotsOk_of_effect (s := { s with schedule := ms }) hslots h
  | reset ms hc hsched => rfl
  | config | illegal | time | look | accept | whileBusy | args | busWrite => exact slotsOk_of_slots_eq hslots rfl rfl

/-! ## The phase (10_state.md R27) -/

/-- The phases of `SET_RATE` after the lookup, for the slot it works on. -/
theorem phaseOk_of_setRateOn {t : State} {i : SlotId} (hslot : t.commandSlot true = some i) (hon : t.setRateOn i = true)
    (hrank : 2 ≤ t.phase.rank) (hb : t.phase ∈ [.srPreMux, .srDelay, .srPostMux] → (t.slot i).variant = .b) :
    t.phaseOk = true := by
  cases hp : t.phase
  case idle | decode | exec | halted | srLookup => simp [hp, Phase.rank] at hrank
  case srPreMux | srDelay | srPostMux =>
    simp only [State.phaseOk, hp, hslot, hon, hb (by simp [hp]), beq_self_eq_true, Bool.and_self]
  all_goals simp only [State.phaseOk, hp, hslot, hon]

theorem commandSlot_of_recalcRate {s : State} {slot : BitVec 2} {i : SlotId}
    (hd : decode s.latch.word = .ok (.recalcRate slot)) (hs : SlotId.ofBits slot = some i) :
    s.commandSlot true = none ∧ s.commandSlot false = some i := by
  simp [State.commandSlot, State.command, hd, hs]

/-- The phases of `RECALC_RATE` after `DECODE`, for its bound slot. -/
theorem phaseOk_of_recalcRate {t : State} {slot : BitVec 2} {i : SlotId} (hd : decode t.latch.word = .ok (.recalcRate slot))
    (hs : SlotId.ofBits slot = some i) (hv : (t.slot i).valid = true) (hrank : 13 ≤ t.phase.rank) : t.phaseOk = true := by
  obtain ⟨hset, hrecalc⟩ := commandSlot_of_recalcRate hd hs
  cases hp : t.phase
  case rcRDacpd | rcRDsmpd | rcRPrediv | rcRFbdiv | rcRPostdiv | rcRFrac | rcCompute =>
    simp only [State.phaseOk, hp, hset, hrecalc, hv]
  all_goals simp [hp, Phase.rank] at hrank

theorem valid_of_recalc_phase {s : State} {slot : BitVec 2} {i : SlotId} (hphase : s.phaseOk = true)
    (hd : decode s.latch.word = .ok (.recalcRate slot)) (hs : SlotId.ofBits slot = some i) (hrank : 13 ≤ s.phase.rank) :
    (s.slot i).valid = true := by
  obtain ⟨hset, hrecalc⟩ := commandSlot_of_recalcRate hd hs
  cases hp : s.phase
  case rcRDacpd | rcRDsmpd | rcRPrediv | rcRFbdiv | rcRPostdiv | rcRFrac | rcCompute =>
    simpa only [State.phaseOk, hp, hset, hrecalc] using hphase
  all_goals simp [hp, Phase.rank] at hrank

theorem valid_of_srLookup {s : State} {i : SlotId} (hphase : s.phaseOk = true) (hslot : s.commandSlot true = some i)
    (hp : s.phase = .srLookup) : (s.slot i).valid = true := by
  simpa only [State.phaseOk, hp, hslot] using hphase

theorem phaseOk_of_exec {t : State} {c : Instr} (hd : decode t.latch.word = .ok c) (hc : endPhases c = [.exec])
    (hp : t.phase = .exec) : t.phaseOk = true := by
  simp only [State.phaseOk, hp, State.command, hd]
  cases c with
  | setRate | recalcRate => cases hc
  | _ => rfl

/-- No table is longer than 12, so the index of an entry fits `IDX` (41_rate_lookup.md R72 item 1). -/
theorem index_toNat {c : Config} (hc : Config.wf c = true) {v : Variant} {n : Nat} {e : RateEntry}
    (hn : (c.rateTable.get v)[n]? = some e) : (BitVec.ofNat 4 n).toNat = n := by
  obtain ⟨-, htables, -⟩ := ConfigRules.rules_iff_wf.mpr hc
  have hlength := htables.length v
  obtain ⟨hlt, -⟩ := List.getElem?_eq_some_iff.mp hn
  rw [BitVec.toNat_ofNat]
  exact Nat.mod_eq_of_lt (by omega)

/-- What the lookup finds is what the command then works on (43_set_rate.md R91). -/
theorem setRateOn_of_lookup {s : State} {i : SlotId} {n : Nat} (hc : Config.wf s.cfg = true)
    (hv : (s.slot i).valid = true) (hn : findRate (s.slotTable i) s.latch.operandLo = some n)
    (haux : (s.slot i).variant = .b → (s.slot i).auxp = true) (p : Phase) :
    State.setRateOn { s with idx := BitVec.ofNat 4 n, phase := p } i = true := by
  obtain ⟨e, he, ht⟩ := findRate_eq_some hn
  have hentry : State.entry { s with idx := BitVec.ofNat 4 n, phase := p } i = some e := by
    have hidx : State.entry { s with idx := BitVec.ofNat 4 n, phase := p } i = (s.slotTable i)[(BitVec.ofNat 4 n).toNat]? :=
      rfl
    rw [hidx, index_toNat hc he, he]
  have hslot : State.slot { s with idx := BitVec.ofNat 4 n, phase := p } i = s.slot i := rfl
  simp only [State.setRateOn, hentry, hslot, hv, ht, beq_self_eq_true, Bool.true_and, Bool.and_true, Bool.or_eq_true,
    bne_iff_ne]
  exact or_iff_not_imp_left.mpr fun hb => haux (not_not.mp hb)

theorem variant_eq_b_of_srDelay {s : State} {i : SlotId} (hphase : s.phaseOk = true) (hslot : s.commandSlot true = some i)
    (hp : s.phase = .srDelay) : (s.slot i).variant = .b := by
  simp only [State.phaseOk, hp, hslot, Bool.and_eq_true, beq_iff_eq] at hphase
  exact hphase.2

/-- `t` has what a command works from as `s` has it: the latch, the slots, the parameters and the index. -/
structure SameTask (s t : State) : Prop where
  latch : t.latch = s.latch := by rfl
  slots : t.slots = s.slots := by rfl
  cfg : t.cfg = s.cfg := by rfl
  idx : t.idx = s.idx := by rfl

theorem SameTask.readField (s : State) (i : SlotId) (f : FieldId) (p : Phase) :
    SameTask s (RecalcRate.readField s i f p s) := by
  cases f <;> exact {}

theorem commandSlot_of_latch_eq {s t : State} (h : t.latch = s.latch) (set : Bool) :
    t.commandSlot set = s.commandSlot set := by
  simp only [State.commandSlot, State.command, h]

section
variable {s t : State} (h : SameTask s t)
include h

theorem SameTask.slot (i : SlotId) : t.slot i = s.slot i := congrArg (PerSlot.get · i) h.slots

theorem SameTask.entry (i : SlotId) : t.entry i = s.entry i := by
  simp only [State.entry, State.slotTable, h.slot, h.cfg, h.idx]

theorem SameTask.commandSlot (set : Bool) : t.commandSlot set = s.commandSlot set := commandSlot_of_latch_eq h.latch set

theorem SameTask.setRateOn (i : SlotId) : t.setRateOn i = s.setRateOn i := by
  simp only [State.setRateOn, h.slot, h.entry, h.latch]

/-- A step of `SET_RATE` that keeps what it works from stays among its phases. -/
theorem SameTask.phaseOk {i : SlotId} (hphase : s.phaseOk = true) (hslot : s.commandSlot true = some i)
    (hrank : 2 ≤ s.phase.rank) (hrank' : 2 ≤ t.phase.rank)
    (hb : t.phase ∈ [.srPreMux, .srDelay, .srPostMux] → (s.slot i).variant = .b) : t.phaseOk = true := by
  refine phaseOk_of_setRateOn ((h.commandSlot true).trans hslot) ?_ hrank' ?_
  · rw [h.setRateOn]
    exact Hazards.setRateOn_of_phase hphase hslot hrank
  · rwa [h.slot]

end

theorem not_mux_phase_of_writeStep : ∀ w ∈ writeSteps, w.2.2 ∉ [Phase.srPreMux, .srDelay, .srPostMux] := by decide

theorem not_mux_phase_of_readStep : ∀ w ∈ RecalcRate.readSteps, w.2.2 ∉ [Phase.srPreMux, .srDelay, .srPostMux] := by decide

theorem readField_phase (s : State) (i : SlotId) (f : FieldId) (p : Phase) :
    (RecalcRate.readField s i f p s).phase = p := rfl

/-- A read-back step stays among the phases of its command, be it `SET_RATE` or `RECALC_RATE`. -/
theorem phaseOk_of_readStep {s : State} {slot : BitVec 2} {i : SlotId} {c : Instr} {f : FieldId} {p : Phase}
    (hphase : s.phaseOk = true) (hd : decode s.latch.word = .ok c) (hs : SlotId.ofBits slot = some i)
    (hc : c ∈ [Instr.setRate slot, .recalcRate slot]) (hstep : (f, s.phase, p) ∈ RecalcRate.readSteps) :
    (RecalcRate.readField s i f p s).phaseOk = true := by
  have hsame := SameTask.readField s i f p
  have hrank : 13 ≤ s.phase.rank := RecalcRate.thirteen_le_rank_of_readStep _ hstep
  have hrank' : 13 ≤ (RecalcRate.readField s i f p s).phase.rank := rank_of_readStep_next _ hstep
  simp only [List.mem_cons, List.not_mem_nil, or_false] at hc
  rcases hc with rfl | rfl
  · exact hsame.phaseOk hphase (Hazards.commandSlot_of_setRate hd hs) (by omega) (by omega)
      fun hmux => absurd hmux (not_mux_phase_of_readStep _ hstep)
  · refine phaseOk_of_recalcRate (hsame.latch ▸ hd) hs ?_ hrank'
    rw [hsame.slot]
    exact valid_of_recalc_phase hphase hd hs hrank

/-- The phase after a step of the command that the latch holds. -/
theorem phaseOk_of_effect {s t : State} {c : Instr} (hc : Config.wf s.cfg = true) (hphase : s.phaseOk = true)
    (hd : decode s.latch.word = .ok c) (h : CmdEffect s c t) : t.phaseOk = true := by
  have rank {p : Phase} (hp : s.phase = p) (h : 2 ≤ p.rank) : 2 ≤ s.phase.rank := hp ▸ h
  cases h with
  | raise | finish | bind => rfl
  | toExec _ hend hp => exact phaseOk_of_exec hd hend rfl
  | toLookup hs hp hv =>
    have hslot := Hazards.commandSlot_of_setRate hd hs
    simp only [State.phaseOk, commandSlot_of_latch_eq (s := s) (t := { s with phase := .srLookup }) rfl, hslot]
    exact hv
  | lookup n hs hp hn haux =>
    have hslot := Hazards.commandSlot_of_setRate hd hs
    refine phaseOk_of_setRateOn hslot (setRateOn_of_lookup hc (valid_of_srLookup hphase hslot hp) hn haux _) ?_ ?_ <;>
      dsimp only <;> split
    · decide
    · decide
    · exact fun _ => ‹_›
    · simp
  | preMux hs hp hok | pdOn hs hp hok | pdOffToRead hs hp hok hb | postMux hs hp hok =>
    exact SameTask.phaseOk (s := s) {} hphase (Hazards.commandSlot_of_setRate hd hs) (rank hp (by decide))
      (Nat.le_of_ble_eq_true rfl) (by simp)
  | write hs hstep he hok =>
    have hrank := (Hazards.rank_of_writeStep _ hstep).1
    have hrank' := (rank_of_writeStep_next _ hstep).1
    exact SameTask.phaseOk (s := s) {} hphase (Hazards.commandSlot_of_setRate hd hs) (Nat.le_trans (by decide) hrank)
      (Nat.le_trans (by decide) hrank') fun hmux => absurd hmux (not_mux_phase_of_writeStep _ hstep)
  | pdOffToDelay hs hp hok hb =>
    exact SameTask.phaseOk (s := s) {} hphase (Hazards.commandSlot_of_setRate hd hs) (rank hp (by decide))
      (Nat.le_of_ble_eq_true rfl) fun _ => hb
  | delay hs hp hsettled =>
    have hslot := Hazards.commandSlot_of_setRate hd hs
    exact SameTask.phaseOk (s := s) {} hphase hslot (rank hp (by decide)) (Nat.le_of_ble_eq_true rfl)
      fun _ => variant_eq_b_of_srDelay hphase hslot hp
  | spin hp hsettled => exact hphase
  | toRead hs hp hv => exact phaseOk_of_recalcRate hd hs hv (Nat.le_of_ble_eq_true rfl)
  | read hs hc hstep hok => exact phaseOk_of_readStep hphase hd hs hc hstep

theorem phaseOk_of_step {s t : State} (hc : Config.wf s.cfg = true) (hphase : s.phaseOk = true) (h : StepEffect s t) :
    t.phaseOk = true := by
  cases h with
  | command ms hchecked hen hd h => exact phaseOk_of_effect (s := { s with schedule := ms }) hc hphase hd h
  | illegal | accept | whileBusy | reset => rfl
  | config | time | look | args | busWrite => exact hphase

/-! ## The parameters (70_reset_and_hazards.md R162) -/

/-- Every step but the first is made with the parameters checked, and the first checks them. -/
theorem config_wf_of_step {s t : State} (hcfg : s.cfgOk = true) (h : StepEffect s t) : Config.wf s.cfg = true := by
  have checked (hc : s.cfgChecked = true) : Config.wf s.cfg = true := by rwa [State.cfgOk, if_pos hc] at hcfg
  cases h with
  | config hc hwf => exact hwf
  | command ms hc | illegal ms hc | time ms d n hc | look ms w hc | accept w ms hc | whileBusy w ms hc
  | args off v ms a0 a1 a2 a3 hc | busWrite a v ms hc | reset ms hc => exact checked hc

theorem cfgOk_of_step {s t : State} (hcfg : s.cfgOk = true) (h : StepEffect s t) : t.cfgOk = true := by
  rw [State.cfgOk, if_pos h.frame.cfgChecked, h.frame.cfg]
  exact config_wf_of_step hcfg h

/-! ## The invariant -/

theorem inv_of_step {s t : State} (hinv : s.Inv) (hstep : step s = .next t) : t.Inv := by
  have heffect := effect_of_step hstep
  have hwf := config_wf_of_step hinv.cfg heffect
  obtain ⟨hcontrol, hcodes⟩ := flagsOk_of_step hinv.control hinv.codes heffect
  exact {
    bus := stepKeepsTheBusCanonical s t hinv.bus hstep
    latch := latchOk_of_step hinv.latch heffect
    control := hcontrol
    codes := hcodes
    slots := slotsOk_of_step hinv.slots heffect
    phase := phaseOk_of_step hwf hinv.phase heffect
    cfg := cfgOk_of_step hinv.cfg heffect }

/-- Settles O47, component by component. -/
theorem stepKeepsTheInvariant : Obligations.StepKeepsTheInvariant :=
  fun _ _ hinv hstep => inv_of_step hinv hstep

/-- Settles O48: after reset nothing is written, bound, raised or running. -/
theorem resetHasTheInvariant : Obligations.ResetHasTheInvariant :=
  ⟨{ bus := State.reset_bus_wf, latch := latchOk_of_latch_zero rfl, control := rfl, codes := rfl, slots := rfl, phase := rfl,
     cfg := rfl }, rfl⟩

end Sys2Proof.Invariant
end

section
/-! PROOFS. What the invariant excludes: a step of the model's own faults (20_memory.md R46), and a change of a byte that is no
bound slot's (20_memory.md R39, R50). -/

namespace Sys2Proof.Safety

open Sys2Proof.Machine Sys2Proof.Effects Sys2Proof.Invariant

/-! ## The command that runs and its phase (10_state.md R27) -/

/-- The slot of a decoded command is one of the three (30_encoding.md R69). -/
theorem exists_slot_of_setRate {w : Word} {slot : BitVec 2} (hd : decode w = .ok (.setRate slot)) :
    ∃ i, SlotId.ofBits slot = some i :=
  Steps.exists_slot_of_ne_three (bne_iff_ne.mp (Encoding.encode_of_decode hd).2)

theorem exists_slot_of_recalcRate {w : Word} {slot : BitVec 2} (hd : decode w = .ok (.recalcRate slot)) :
    ∃ i, SlotId.ofBits slot = some i :=
  Steps.exists_slot_of_ne_three (bne_iff_ne.mp (Encoding.encode_of_decode hd).2)

/-- An illegal word runs in `DECODE` only. -/
theorem phase_of_illegal {s : State} {e : DecodeError} (hphase : s.phaseOk = true) (hd : decode s.latch.word = .error e)
    (hrun : Running s.phase) : s.phase = .decode := by
  have hcommand : s.command = none := by simp only [State.command, hd]
  have hslot (set : Bool) : s.commandSlot set = none := by simp only [State.commandSlot, hcommand]
  cases hp : s.phase
  case decode => rfl
  case idle => exact absurd hp hrun.1
  case halted => exact absurd hp hrun.2
  all_goals simp [State.phaseOk, hp, hcommand, hslot] at hphase

/-- A command without bus access runs in `DECODE` and `EXEC` only. -/
theorem phase_of_lookup {s : State} {c : Instr} (hphase : s.phaseOk = true) (hd : decode s.latch.word = .ok c)
    (hc : endPhases c = [.exec]) (hrun : Running s.phase) : s.phase = .decode ∨ s.phase = .exec := by
  have hslot (set : Bool) : s.commandSlot set = none := by
    simp only [State.commandSlot, State.command, hd]
    cases c with
    | setRate | recalcRate => cases hc
    | _ => rfl
  cases hp : s.phase
  case decode => exact .inl rfl
  case exec => exact .inr rfl
  case idle => exact absurd hp hrun.1
  case halted => exact absurd hp hrun.2
  all_goals simp [State.phaseOk, hp, hslot] at hphase

/-- A command on a slot runs in `DECODE` and in phases of its own; `EXEC` is none of them. -/
theorem phase_ne_exec {s : State} {c : Instr} (hphase : s.phaseOk = true) (hd : decode s.latch.word = .ok c)
    (hc : endPhases c ≠ [.exec]) : s.phase ≠ .exec := by
  intro hp
  simp only [State.phaseOk, hp, State.command, hd] at hphase
  cases c with
  | setRate | recalcRate => cases hphase
  | _ => exact absurd rfl hc

theorem phase_of_recalcRate {s : State} {slot : BitVec 2} {i : SlotId} (hphase : s.phaseOk = true)
    (hd : decode s.latch.word = .ok (.recalcRate slot)) (hs : SlotId.ofBits slot = some i) (hrun : Running s.phase) :
    s.phase = .decode ∨ 13 ≤ s.phase.rank := by
  obtain ⟨hset, -⟩ := commandSlot_of_recalcRate hd hs
  cases hp : s.phase
  case decode => exact .inl rfl
  case idle => exact absurd hp hrun.1
  case halted => exact absurd hp hrun.2
  case exec => exact absurd hp (phase_ne_exec hphase hd (by simp [endPhases]))
  case rcRDacpd | rcRDsmpd | rcRPrediv | rcRFbdiv | rcRPostdiv | rcRFrac | rcCompute => exact .inr (Nat.le_of_ble_eq_true rfl)
  all_goals simp [State.phaseOk, hp, hset] at hphase

/-! ## Every step of the sequencer goes on (20_memory.md R46) -/

theorem exists_entry_of_setRateOn {s : State} {i : SlotId} (h : s.setRateOn i = true) :
    ∃ e, s.entry i = some e ∧ e.target = s.latch.operandLo := by
  simp only [State.setRateOn, Bool.and_eq_true] at h
  obtain ⟨-, hentry⟩ := h
  cases he : s.entry i with
  | none => simp [he] at hentry
  | some e => exact ⟨e, rfl, by simpa [he] using hentry⟩

/-- The mux register of a bound slot with an aux block is one the bus has. -/
theorem busOk_muxAddr_of_valid {s : State} {i : SlotId} (hslots : s.slotsOk = true) (hc : Config.wf s.cfg = true)
    (hv : (s.slot i).valid = true) (haux : (s.slot i).auxp = true) : s.busOk (s.muxAddr i) = true := by
  obtain ⟨haddr, -, -⟩ := slotPlaced_iff.mp ((slotsOk_iff.mp hslots).1 i) hv
  obtain ⟨-, -, hmux⟩ := Create.addrOk_iff.mp haddr
  obtain ⟨halign, hrange⟩ := hmux haux
  obtain ⟨hlayout, -, -⟩ := ConfigRules.rules_iff_wf.mpr hc
  have hoff := hlayout.muxOffset.1
  refine State.busOk_iff.mpr ⟨?_, hrange⟩
  rw [State.muxAddr]
  omega

section
variable {s : State} (hinv : s.Inv) (hc : Config.wf s.cfg = true) (hen : s.seqEnabled = true)
include hinv hc hen

omit hen in
/-- The recalc phases go on, for the bound slot they work on. -/
theorem exists_next_of_recalc_phase {slot : BitVec 2} {i : SlotId} {c : Instr} (hs : SlotId.ofBits slot = some i)
    (hmem : c ∈ [Instr.setRate slot, .recalcRate slot]) (hv : (s.slot i).valid = true) (hrank : 13 ≤ s.phase.rank) :
    ∃ t, exec c s = .next t := by
  have hread (f : FieldId) {p : Phase} (q : Phase) (hp : s.phase = p) (hstep : (f, p, q) ∈ RecalcRate.readSteps) :
      ∃ t, exec c s = .next t :=
    ⟨_, RecalcRate.exec_readStep hs hmem (hp ▸ hstep) (RecalcRate.busOk_fieldAddr_of_valid hinv.slots hc hv f)⟩
  cases hp : s.phase
  case rcRDacpd => exact hread .dacpd .rcRDsmpd hp (by decide)
  case rcRDsmpd => exact hread .dsmpd .rcRPrediv hp (by decide)
  case rcRPrediv => exact hread .prediv .rcRFbdiv hp (by decide)
  case rcRFbdiv => exact hread .fbdiv .rcRPostdiv hp (by decide)
  case rcRPostdiv => exact hread .postdiv .rcRFrac hp (by decide)
  case rcRFrac => exact hread .frac .rcCompute hp (by decide)
  case rcCompute => exact ⟨_, RecalcRate.exec_rcCompute hs hmem hp⟩
  all_goals simp [hp, Phase.rank] at hrank

theorem exists_next_of_recalcRate {slot : BitVec 2} (hd : decode s.latch.word = .ok (.recalcRate slot)) :
    ∃ t, exec (.recalcRate slot) s = .next t := by
  obtain ⟨i, hs⟩ := exists_slot_of_recalcRate hd
  rcases phase_of_recalcRate hinv.phase hd hs (running_of_seqEnabled hen) with hp | hrank
  · exact ⟨_, Steps.exec_recalcRate_of_decode hp hs⟩
  · exact exists_next_of_recalc_phase hinv hc hs (by simp) (valid_of_recalc_phase hinv.phase hd hs hrank) hrank

/-- The phases of `SET_RATE` that write go on, for the slot they work on. -/
theorem exists_next_of_setRateOn {slot : BitVec 2} {i : SlotId} (hs : SlotId.ofBits slot = some i)
    (hslot : s.commandSlot true = some i) (hrank : 2 ≤ s.phase.rank) :
    ∃ t, exec (.setRate slot) s = .next t := by
  have hon := Hazards.setRateOn_of_phase hinv.phase hslot hrank
  have hv := Hazards.valid_of_setRateOn hon
  obtain ⟨e, he, -⟩ := exists_entry_of_setRateOn hon
  have hfield := RecalcRate.busOk_fieldAddr_of_valid hinv.slots hc hv
  have hmux (hb : (s.slot i).variant = .b) := busOk_muxAddr_of_valid hinv.slots hc hv (Hazards.auxp_of_setRateOn hon hb)
  have hwrite (f : FieldId) {p : Phase} (q : Phase) (hp : s.phase = p) (hstep : (f, p, q) ∈ writeSteps) :
      ∃ t, exec (.setRate slot) s = .next t :=
    ⟨_, SetRate.exec_writeStep hs (hp ▸ hstep) he (hfield f)⟩
  by_cases hlate : 13 ≤ s.phase.rank
  · exact exists_next_of_recalc_phase hinv hc hs (by simp) hv hlate
  cases hp : s.phase
  case srPreMux =>
    exact ⟨_, SetRate.exec_srPreMux hs hp (hmux (Hazards.variant_eq_b_of_mux_phase hinv.phase hslot (.inl hp)))⟩
  case srPdOn => exact ⟨_, SetRate.exec_srPdOn hs hp (hfield .pd)⟩
  case srWDacpd => exact hwrite .dacpd .srWDsmpd hp (by decide)
  case srWDsmpd => exact hwrite .dsmpd .srWFrac hp (by decide)
  case srWFrac => exact hwrite .frac .srWPrediv hp (by decide)
  case srWPrediv => exact hwrite .prediv .srWFbdiv hp (by decide)
  case srWFbdiv => exact hwrite .fbdiv .srWPostdiv hp (by decide)
  case srWPostdiv => exact hwrite .postdiv .srPdOff hp (by decide)
  case srPdOff => exact ⟨_, SetRate.exec_srPdOff hs hp (hfield .pd)⟩
  case srDelay =>
    exact ⟨_, Steps.exec_srDelay_of_settled hs hp ((Steps.seqEnabled_of_srDelay hp).symm.trans hen)⟩
  case srPostMux =>
    exact ⟨_, SetRate.exec_srPostMux hs hp (hmux (Hazards.variant_eq_b_of_mux_phase hinv.phase hslot (.inr hp)))⟩
  all_goals simp [hp, Phase.rank] at hrank hlate

theorem exists_next_of_setRate {slot : BitVec 2} (hd : decode s.latch.word = .ok (.setRate slot)) :
    ∃ t, exec (.setRate slot) s = .next t := by
  obtain ⟨i, hs⟩ := exists_slot_of_setRate hd
  by_cases hrank : 2 ≤ s.phase.rank
  · exact exists_next_of_setRateOn hinv hc hen hs (Hazards.commandSlot_of_setRate hd hs) hrank
  · have hrun := running_of_seqEnabled hen
    cases hp : s.phase
    case decode => exact ⟨_, Steps.exec_setRate_of_decode hp hs⟩
    case srLookup => exact ⟨_, SetRate.exec_srLookup hs hp⟩
    case idle => exact absurd hp hrun.1
    case halted => exact absurd hp hrun.2
    case exec => exact absurd hp (phase_ne_exec hinv.phase hd (by simp [endPhases]))
    all_goals simp [hp, Phase.rank] at hrank

omit hinv hc hen in
/-- In `EXEC` a well-formed command without bus access takes its effect. -/
theorem exists_next_of_exec {c : Instr} (hwf : c.wf = true) (hend : endPhases c = [.exec]) (hp : s.phase = .exec) :
    ∃ t, exec c s = .next t := by
  have codec {fld : BitVec 3} (hfld : (fld != 7) = true) := FieldCodec.exists_field_of_ne_seven (bne_iff_ne.mp hfld)
  cases c with
  | create slot var auxp =>
    obtain ⟨i, hs⟩ := Steps.exists_slot_of_ne_three (bne_iff_ne.mp hwf)
    exact ⟨_, Create.exec_create_of_exec hs hp⟩
  | findRate var => exact ⟨_, RateLookup.exec_findRate_of_exec hp⟩
  | fieldLayout var fld =>
    obtain ⟨f, hf⟩ := codec hwf
    exact ⟨_, FieldCodec.exec_fieldLayout_of_exec hf hp⟩
  | fieldExtract var fld =>
    obtain ⟨f, hf⟩ := codec hwf
    exact ⟨_, FieldCodec.exec_fieldExtract_of_exec hf hp⟩
  | fieldInsert var fld =>
    obtain ⟨f, hf⟩ := codec hwf
    exact ⟨_, FieldCodec.exec_fieldInsert_of_exec hf hp⟩
  | setRate | recalcRate => cases hend

omit hc in
theorem exists_next_of_lookup {c : Instr} (hd : decode s.latch.word = .ok c) (hend : endPhases c = [.exec]) :
    ∃ t, exec c s = .next t := by
  have hwf := (Encoding.encode_of_decode hd).2
  rcases phase_of_lookup hinv.phase hd hend (running_of_seqEnabled hen) with hp | hp
  · exact ⟨_, Steps.exec_decode_of_lookup hp hwf hend⟩
  · exact exists_next_of_exec hwf hend hp

/-- A sequencer that has a step takes it: no fault of the model stops it. -/
theorem exists_next_of_seqStep : ∃ t, s.seqStep = .next t := by
  cases hd : decode s.latch.word with
  | error e =>
    exact ⟨_, Steps.seqStep_of_error hd (phase_of_illegal hinv.phase hd (running_of_seqEnabled hen))⟩
  | ok c =>
    rw [Steps.seqStep_of_ok hd]
    cases c with
    | setRate slot => exact exists_next_of_setRate hinv hc hen hd
    | recalcRate slot => exact exists_next_of_recalcRate hinv hc hen hd
    | create | findRate | fieldLayout | fieldExtract | fieldInsert => exact exists_next_of_lookup hinv hen hd rfl

end

theorem seqStep_ne_fault {s : State} (hinv : s.Inv) (hc : Config.wf s.cfg = true) (hen : s.seqEnabled = true) (r : Fault) :
    s.seqStep ≠ .fault r := by
  obtain ⟨t, hnext⟩ := exists_next_of_seqStep hinv hc hen
  rw [hnext]
  exact nofun

/-- Of the scheduled moves only a turn of the sequencer can stop with a fault. -/
theorem runMove_ne_fault {s : State} (hinv : s.Inv) (hc : Config.wf s.cfg = true) (m : Move) (r : Fault) :
    s.runMove m ≠ .fault r := by
  intro h
  cases m with
  | sequencer =>
    simp only [State.runMove] at h
    split at h
    · exact seqStep_ne_fault hinv hc ‹_› r h
    · cases h
  | others =>
    obtain ⟨hen, hseq⟩ := State.othersStep_eq_fault h
    exact seqStep_ne_fault hinv hc hen r hseq
  | hostWrite off v =>
    simp only [State.runMove, State.moveHostWrite] at h
    split at h <;> cases h
  | hostRead off =>
    simp only [State.runMove, State.moveHostRead] at h
    split at h <;> cases h
  | busWrite a v =>
    simp only [State.runMove, State.moveBusWrite] at h
    split at h <;> cases h
  | tick d =>
    simp only [State.runMove, State.moveTick] at h
    split at h <;> cases h
  | wait | reset => cases h

/-- Settles O50: of a step that stops with a fault there is left the one of the time source, when no move is asked for and the
sequencer has no step. -/
theorem invariantExcludesModelFaults : Obligations.InvariantExcludesModelFaults := by
  intro s r hinv h
  unfold step State.machineStep at h
  split at h
  · next hchecked =>
    have hc := RecalcRate.config_wf_of_inv hinv hchecked
    cases hsched : s.schedule with
    | cons m ms =>
      simp only [State.agentStep, hsched] at h
      have hinv' : State.Inv { s with schedule := ms } :=
        ⟨hinv.bus, hinv.latch, hinv.control, hinv.codes, hinv.slots, hinv.phase, hinv.cfg⟩
      exact absurd h (runMove_ne_fault hinv' hc m r)
    | nil =>
      simp only [State.agentStep, hsched, State.autoStep] at h
      split at h
      · next hen => exact absurd h (seqStep_ne_fault hinv hc hen r)
      · next hen =>
        obtain ⟨hr, hnow⟩ := State.timePasses_eq_fault h
        exact ⟨hr, hnow, Bool.eq_false_iff.mpr hen⟩
  · unfold State.checkConfig at h
    split at h <;> cases h

/-! ## The bytes that a step changes (20_memory.md R39, R50) -/

/-- The register that a phase of `SET_RATE` writes is a field's or, in the two mux phases, the mux's. -/
theorem storeAddr_cases {s : State} {i : SlotId} {a : Nat} (h : s.storeAddr i = some a) :
    2 ≤ s.phase.rank ∧ ((∃ f, s.fieldAddr i f = a) ∨
      ((s.phase = .srPreMux ∨ s.phase = .srPostMux) ∧ s.muxAddr i = a)) := by
  unfold State.storeAddr at h
  split at h
  case h_1 hp => exact ⟨by rw [hp]; decide, .inr ⟨.inl hp, Option.some.inj h⟩⟩
  case h_10 hp => exact ⟨by rw [hp]; decide, .inr ⟨.inr hp, Option.some.inj h⟩⟩
  case h_11 => cases h
  all_goals exact ⟨by rw [‹s.phase = _›]; decide, .inl ⟨_, Option.some.inj h⟩⟩

/-- Settles O52: a byte that a step changes lies in the register that the phase of a `SET_RATE` writes, which is one of the
slot it works on, or in the one that the host's own write names. -/
theorem onlyItsOwnRegistersChange : Obligations.OnlyItsOwnRegistersChange := by
  intro s t b hinv hstep hne
  cases effect_of_step hstep with
  | @command t ms c hc hen hd h =>
    by_cases hset : ∃ slot, c = .setRate slot
    · obtain ⟨slot, rfl⟩ := hset
      obtain ⟨i, hs⟩ := exists_slot_of_setRate hd
      have hstore : ∃ a, s.storeAddr i = some a ∧ inRegister a b := by
        by_contra hnone
        exact hne (h.readByte_eq hs fun a ha hin => hnone ⟨a, ha, hin⟩)
      obtain ⟨a, ha, hin⟩ := hstore
      obtain ⟨hrank, haddr⟩ := storeAddr_cases ha
      have hslot := Hazards.commandSlot_of_setRate hd hs
      have hon := Hazards.setRateOn_of_phase hinv.phase hslot hrank
      rcases haddr with ⟨f, rfl⟩ | ⟨hp, rfl⟩
      · exact .inl ⟨i, f, Hazards.valid_of_setRateOn hon, hin⟩
      · have hb := Hazards.variant_eq_b_of_mux_phase hinv.phase hslot hp
        exact .inr (.inl ⟨i, Hazards.valid_of_setRateOn hon, Hazards.auxp_of_setRateOn hon hb, hin⟩)
    · exact absurd (congrArg (Memory.readByte · b) (h.bus_eq fun slot heq => hset ⟨slot, heq⟩)) hne
  | busWrite a v ms hc hsched hmay =>
    refine .inr (.inr ⟨a, v, ms, hsched, ?_⟩)
    by_contra hout
    refine hne (Memory.readByte_writeWord_outside s.bus s.cfg.busEndian v ?_)
    simp only [inRegister] at hout
    omega
  | config | illegal | time | look | accept | whileBusy | args | reset => exact absurd rfl hne

end Sys2Proof.Safety
end

section
/-! PROOFS. How far a `SET_RATE` has come (43_set_rate.md R93 to R106, R110): every step of every agent keeps it, and the compute
step works on the values of the entry. -/

namespace Sys2Proof.Progress

open Sys2Proof.Machine Sys2Proof.Effects Sys2Proof.Invariant

/-! ## The progress as a proposition -/

/-- `setRateProgress`, part by part. -/
structure SetRateProgress (s : State) (i : SlotId) (e : RateEntry) : Prop where
  pd : 4 ≤ s.phase.rank → s.phase.rank ≤ 10 → s.fieldVal i .pd = 1
  fields : ∀ f, s.phase.rank ≤ writeRank f ∨ s.fieldVal i f = entryValue e f
  readBacks : ∀ f, s.phase.rank ≤ readRank f ∨ s.readBackOf f = entryValue e f
  settled : s.phase = .srPostMux → s.settled = true
  ref : 13 ≤ s.phase.rank → s.ref = s.cfg.parentRate.get i

theorem setRateProgress_iff {s : State} {i : SlotId} {e : RateEntry} :
    s.setRateProgress i e = true ↔ SetRateProgress s i e := by
  simp only [State.setRateProgress, Bool.and_eq_true, Bool.or_eq_true, Bool.not_eq_true', Bool.and_eq_false_iff,
    decide_eq_false_iff_not, beq_iff_eq, List.all_eq_true, FieldId.mem_all, forall_const, decide_eq_true_eq,
    bne_iff_ne]
  constructor
  · rintro ⟨⟨⟨⟨hpd, hfields⟩, hread⟩, hsettled⟩, href⟩
    exact {
      pd := fun hlo hhi => hpd.resolve_left (by omega)
      fields := hfields
      readBacks := hread
      settled := fun hp => hsettled.resolve_left (not_not_intro hp)
      ref := fun h => href.resolve_left (by omega) }
  · rintro ⟨hpd, hfields, hread, hsettled, href⟩
    refine ⟨⟨⟨⟨?_, hfields⟩, hread⟩, Decidable.not_or_of_imp hsettled⟩, (Nat.lt_or_ge _ 13).imp_right href⟩
    by_cases hrange : 4 ≤ s.phase.rank ∧ s.phase.rank ≤ 10
    · exact .inr (hpd hrange.1 hrange.2)
    · exact .inl (by omega)

theorem progressOk_iff {s : State} :
    s.progressOk = true ↔ ∀ i e, s.commandSlot true = some i → 2 ≤ s.phase.rank → s.entry i = some e →
      SetRateProgress s i e := by
  unfold State.progressOk
  cases hslot : s.commandSlot true with
  | none => simp
  | some j =>
    simp only [Option.some.injEq, Bool.or_eq_true, decide_eq_true_eq]
    cases he : s.entry j with
    | none =>
      simp only [or_true, true_iff]
      rintro i e rfl - h
      cases he.symm.trans h
    | some e =>
      simp only [setRateProgress_iff]
      constructor
      · rintro h i e' rfl hrank h'
        obtain rfl := Option.some.inj (he.symm.trans h')
        exact h.resolve_left (by omega)
      · intro h
        by_cases hrank : 2 ≤ s.phase.rank
        · exact .inr (h j e rfl hrank he)
        · exact .inl (by omega)

theorem progressOk_of_rank {s : State} (h : s.phase.rank ≤ 1) : s.progressOk = true :=
  progressOk_iff.mpr fun _ _ _ hrank => absurd hrank (by omega)

/-- Before the power-down nothing has been achieved yet. -/
theorem setRateProgress_of_rank {s : State} {i : SlotId} {e : RateEntry} (h : s.phase.rank ≤ 3) : SetRateProgress s i e where
  pd := fun hlo => absurd hlo (by omega)
  fields := fun f => .inl (by cases f <;> simp only [writeRank] <;> omega)
  readBacks := fun f => .inl (by cases f <;> simp only [readRank] <;> omega)
  settled := fun hp => absurd h (by rw [hp]; decide)
  ref := fun hlo => absurd hlo (by omega)

/-! ## The values of an entry fit their fields (41_rate_lookup.md R72 items 3 to 6) -/

theorem entryValue_fits {c : Config} (hc : Config.wf c = true) {v : Variant} {e : RateEntry} (he : e ∈ c.rateTable.get v)
    (f : FieldId) : (entryValue e f).toNat < 2 ^ ((c.layout.get v).get f).width := by
  obtain ⟨hlayout, htables, -⟩ := ConfigRules.rules_iff_wf.mpr hc
  obtain ⟨⟨-, hprediv⟩, hfbdiv, -, k, hk, hkw, -⟩ := htables.entries v e he
  have mode_le : (if e.useFraction then (0 : Word) else 1).toNat < 2 ^ 1 := by split <;> decide
  cases f with
  | pd => exact Nat.two_pow_pos _
  | dacpd =>
    rw [hlayout.oneBit v .dacpd (by simp)]
    exact mode_le
  | dsmpd =>
    rw [hlayout.oneBit v .dsmpd (by simp)]
    exact mode_le
  | frac =>
    rw [hlayout.fracWidth v, entryValue, BitVec.toNat_setWidth]
    exact (Nat.mod_le _ _).trans_lt (entryFrac e).isLt
  | fbdiv => exact hfbdiv
  | prediv => exact hprediv
  | postdiv =>
    rw [SetRate.entryValue_postdiv hk, BitVec.toNat_ofNat]
    exact (Nat.mod_le _ _).trans_lt hkw

/-! ## What a write leaves in the fields -/

theorem writeRank_injective : ∀ f ∈ FieldId.all, ∀ g ∈ FieldId.all, writeRank f = writeRank g → f = g := by decide

section
variable {s : State} {i : SlotId} (hbus : s.bus.wf = true) (hc : Config.wf s.cfg = true)
include hbus hc

/-- The field that an `RMW` names, after it (42_field_codec.md R83, R88). -/
theorem fieldVal_rmw_same {f : FieldId} {x : Word} (hfit : x.toNat < 2 ^ (s.slotLayout i f).width) :
    (s.rmw (s.fieldAddr i f) (s.slotLayout i f) x).fieldVal i f = x := by
  have hinside := (ConfigRules.rules_iff_wf.mpr hc).1.inside (s.slot i).variant f
  change extractField ((s.rmw (s.fieldAddr i f) (s.slotLayout i f) x).busAt (s.fieldAddr i f))
    (fieldMask (s.slotLayout i f)) (s.slotLayout i f).shift = x
  rw [State.rmw_busAt_same hbus]
  exact FieldCodec.extractField_insertField_same _ hinside hfit

/-- After the write of a field with the entry's value, in the phase that is its own, the fields up to it hold the entry's. -/
theorem fields_after_write {e : RateEntry} (he : e ∈ s.slotTable i) (hprog : SetRateProgress s i e) {f : FieldId}
    (hrank : s.phase.rank = writeRank f) (g : FieldId) :
    writeRank f < writeRank g ∨
      (s.rmw (s.fieldAddr i f) (s.slotLayout i f) (entryValue e f)).fieldVal i g = entryValue e g := by
  by_cases hgf : g = f
  · subst hgf
    exact .inr (fieldVal_rmw_same hbus hc (entryValue_fits hc he g))
  · rw [RecalcRate.fieldVal_rmw_other hbus hc i hgf]
    refine (hprog.fields g).imp_left fun hle => Nat.lt_of_le_of_ne (hrank ▸ hle) fun heq => hgf ?_
    exact writeRank_injective g (FieldId.mem_all g) f (FieldId.mem_all f) heq.symm

end

/-! ## One step of the command -/

/-- The phases of the write steps, counted. -/
theorem writeStep_ranks : ∀ w ∈ writeSteps,
    w.2.1.rank = writeRank w.1 ∧ w.2.2.rank = writeRank w.1 + 1 ∧ writeRank w.1 ≤ 9 ∧ w.2.2 ≠ .srPostMux := by decide

/-- The phases of the read-back steps, counted. -/
theorem readStep_ranks : ∀ w ∈ RecalcRate.readSteps,
    w.2.1.rank = readRank w.1 ∧ w.2.2.rank = readRank w.1 + 1 ∧ 13 ≤ readRank w.1 := by decide

theorem readRank_injective : ∀ f ∈ FieldId.all, ∀ g ∈ FieldId.all, readRank f = readRank g → f = g := by decide

theorem writeRank_le (f : FieldId) : writeRank f ≤ 10 := by cases f <;> decide

theorem le_readRank (f : FieldId) : 13 ≤ readRank f := by cases f <;> decide

/-- The working register of a field that is read back, afterwards: a mode bit is one bit wide and its field too. -/
theorem readBackOf_readField {s : State} {i : SlotId} {f : FieldId} {p : Phase} (hf : f ≠ .pd)
    (hone : f ∈ [FieldId.dacpd, .dsmpd] → (s.fieldVal i f).toNat < 2 ^ 1) :
    (RecalcRate.readField s i f p s).readBackOf f = s.fieldVal i f := by
  have one_bit {v : Word} (h : v.toNat < 2 ^ 1) : (v.setWidth 1).setWidth 32 = v := by
    apply BitVec.eq_of_toNat_eq
    rw [BitVec.toNat_setWidth, BitVec.toNat_setWidth]
    omega
  cases f with
  | pd => exact absurd rfl hf
  | dacpd => exact one_bit (hone (by simp))
  | dsmpd => exact one_bit (hone (by simp))
  | frac | fbdiv | prediv | postdiv => rfl

theorem readBackOf_readField_other {s : State} {i : SlotId} {f g : FieldId} {p : Phase} (hg : g ≠ f) :
    (RecalcRate.readField s i f p s).readBackOf g = s.readBackOf g := by
  cases f <;> cases g <;> first | rfl | exact absurd rfl hg

theorem readField_fieldVal (s : State) (i j : SlotId) (f g : FieldId) (p : Phase) :
    (RecalcRate.readField s i f p s).fieldVal j g = s.fieldVal j g := by
  cases f <;> rfl

theorem readField_ref (s : State) (i : SlotId) (f : FieldId) (p : Phase) :
    (RecalcRate.readField s i f p s).ref = s.ref := by
  cases f <;> rfl

section
variable {s : State} {i : SlotId} {e : RateEntry} (hinv : s.Inv) (hc : Config.wf s.cfg = true) (he : s.entry i = some e)
  (hprog : SetRateProgress s i e)
include hinv hc

/-- `SR_PD_ON`: `PD` holds 1 (43_set_rate.md R93). -/
theorem progress_pdOn {t : State} (ht : t = { s.rmw (s.fieldAddr i .pd) (s.slotLayout i .pd) 1 with phase := .srWDacpd }) :
    SetRateProgress t i e := by
  subst ht
  have hwidth : (s.slotLayout i .pd).width = 1 :=
    (ConfigRules.rules_iff_wf.mpr hc).1.oneBit (s.slot i).variant .pd (by simp)
  exact {
    pd := fun _ _ => fieldVal_rmw_same hinv.bus hc (by rw [hwidth]; decide)
    fields := fun f => .inl (by cases f <;> exact Nat.le_of_ble_eq_true rfl)
    readBacks := fun f => .inl (by cases f <;> exact Nat.le_of_ble_eq_true rfl)
    settled := nofun
    ref := fun h => absurd h (by simp [Phase.rank]) }

include he hprog

/-- A write step: the field holds the entry's value, `PD` still 1 (43_set_rate.md R96 to R101, R110). -/
theorem progress_write {f : FieldId} {p : Phase} (hstep : (f, s.phase, p) ∈ writeSteps) :
    SetRateProgress { s.rmw (s.fieldAddr i f) (s.slotLayout i f) (entryValue e f) with phase := p } i e := by
  obtain ⟨hrank, hnext, hle, hpost⟩ := writeStep_ranks _ hstep
  dsimp only at hrank hnext hle hpost
  have hlo := (Hazards.rank_of_writeStep _ hstep).1
  have hpd : FieldId.pd ≠ f := by
    rintro rfl
    exact absurd hle (by decide)
  have hfields := fields_after_write hinv.bus hc (List.mem_of_getElem? he) hprog hrank
  exact {
    pd := fun _ _ => (RecalcRate.fieldVal_rmw_other hinv.bus hc i hpd _).trans (hprog.pd hlo (by omega))
    fields := fun g => (hfields g).imp_left fun hlt => by dsimp only; omega
    readBacks := fun g => .inl (by have := le_readRank g; dsimp only; omega)
    settled := fun hp => absurd hp hpost
    ref := fun h => absurd h (by dsimp only; omega) }

/-- `SR_PD_OFF`: every field holds the entry's value (43_set_rate.md R103). -/
theorem fields_after_pdOff (hp : s.phase = .srPdOff) (g : FieldId) :
    (s.rmw (s.fieldAddr i .pd) (s.slotLayout i .pd) 0).fieldVal i g = entryValue e g := by
  have hfields := fields_after_write hinv.bus hc (List.mem_of_getElem? he) hprog (f := .pd) (by rw [hp]; rfl) g
  exact hfields.resolve_left (Nat.not_lt.mpr (writeRank_le g))

end

/-- A step after the writes that leaves the fields as they are. -/
theorem progress_after_writes {t : State} {i : SlotId} {e : RateEntry}
    (hfields : ∀ f, t.fieldVal i f = entryValue e f) (hlo : 11 ≤ t.phase.rank)
    (hhi : t.phase.rank ≤ 13) (hsettled : t.phase = .srPostMux → t.settled = true)
    (href : 13 ≤ t.phase.rank → t.ref = t.cfg.parentRate.get i) : SetRateProgress t i e where
  pd := fun _ h => absurd h (by omega)
  fields := fun f => .inr (hfields f)
  readBacks := fun f => .inl (hhi.trans (le_readRank f))
  settled := hsettled
  ref := href

section
variable {s : State} {i : SlotId} {e : RateEntry} (hprog : SetRateProgress s i e)
include hprog

theorem fields_of_late_rank (hrank : 11 ≤ s.phase.rank) (f : FieldId) : s.fieldVal i f = entryValue e f :=
  (hprog.fields f).resolve_left (by have := writeRank_le f; omega)

/-- A read-back step: the working register holds the entry's value (44_recalc_rate.md R115 to R120). -/
theorem progress_read (hc : Config.wf s.cfg = true) {f : FieldId} {p : Phase}
    (hstep : (f, s.phase, p) ∈ RecalcRate.readSteps) : SetRateProgress (RecalcRate.readField s i f p s) i e := by
  obtain ⟨hrank, hnext, hlo⟩ := readStep_ranks _ hstep
  dsimp only at hrank hnext hlo
  have hfields := fields_of_late_rank hprog (by omega)
  have hmode : f ∈ [FieldId.dacpd, .dsmpd] → (s.fieldVal i f).toNat < 2 ^ 1 := fun hf => by
    rw [← (ConfigRules.rules_iff_wf.mpr hc).1.oneBit (s.slot i).variant f (by simp at hf ⊢; tauto)]
    exact FieldCodec.extractField_lt_two_pow _ _
  have hpd : f ≠ .pd := by
    rintro rfl
    simp [RecalcRate.readSteps] at hstep
  have hphase := readField_phase s i f p
  exact {
    pd := fun _ h => absurd h (by rw [hphase]; omega)
    fields := fun g => .inr ((readField_fieldVal s i i f g p).trans (hfields g))
    readBacks := fun g => by
      by_cases hg : g = f
      · subst hg
        exact .inr ((readBackOf_readField hpd hmode).trans (hfields g))
      · rw [readBackOf_readField_other hg, hphase]
        refine (hprog.readBacks g).imp_left fun hle => ?_
        have hne : readRank g ≠ readRank f := fun heq =>
          hg (readRank_injective g (FieldId.mem_all g) f (FieldId.mem_all f) heq)
        omega
    settled := fun hp => absurd (congrArg Phase.rank (hphase.symm.trans hp)) (by rw [hnext]; simp only [Phase.rank]; omega)
    ref := fun _ => by
      rw [readField_ref, (SameTask.readField s i f p).cfg]
      exact hprog.ref (by omega) }

end

theorem commandSlot_ne_some {s : State} {c : Instr} (hd : decode s.latch.word = .ok c) (hc : ∀ slot, c ≠ .setRate slot) :
    s.commandSlot true = none := by
  simp only [State.commandSlot, State.command, hd]
  cases c with
  | setRate slot => exact absurd rfl (hc slot)
  | _ => rfl

/-- Every step of a `SET_RATE` after the lookup goes on with what it has achieved. -/
theorem progress_of_effect {s t : State} {slot : BitVec 2} {i : SlotId} {e : RateEntry} (hinv : s.Inv)
    (hc : Config.wf s.cfg = true) (hd : decode s.latch.word = .ok (.setRate slot)) (hs : SlotId.ofBits slot = some i)
    (he : s.entry i = some e) (hprog : SetRateProgress s i e) (h : CmdEffect s (.setRate slot) t) :
    SetRateProgress t i e := by
  have hslot := Hazards.commandSlot_of_setRate hd hs
  cases h with
  | raise | finish | toExec | toLookup => exact setRateProgress_of_rank (Nat.le_of_ble_eq_true rfl)
  | lookup n hs' hp hn haux => exact setRateProgress_of_rank (by dsimp only; split <;> decide)
  | preMux hs' hp hok => exact setRateProgress_of_rank (Nat.le_of_ble_eq_true rfl)
  | pdOn hs' hp hok =>
    obtain rfl := Option.some.inj (hs.symm.trans hs')
    exact progress_pdOn hinv hc rfl
  | write hs' hstep he' hok =>
    obtain rfl := Option.some.inj (hs.symm.trans hs')
    obtain rfl := Option.some.inj (he.symm.trans he')
    exact progress_write hinv hc he hprog hstep
  | pdOffToDelay hs' hp hok hb =>
    obtain rfl := Option.some.inj (hs.symm.trans hs')
    exact progress_after_writes (fields_after_pdOff hinv hc he hprog hp) (Nat.le_of_ble_eq_true rfl)
      (Nat.le_of_ble_eq_true rfl) nofun fun h => absurd h (by simp [Phase.rank])
  | pdOffToRead hs' hp hok hb =>
    obtain rfl := Option.some.inj (hs.symm.trans hs')
    exact progress_after_writes (fields_after_pdOff hinv hc he hprog hp) (Nat.le_of_ble_eq_true rfl)
      (Nat.le_of_ble_eq_true rfl) nofun fun _ => rfl
  | delay hs' hp hsettled =>
    have hfields := fields_of_late_rank hprog (by rw [hp]; decide)
    exact progress_after_writes hfields (Nat.le_of_ble_eq_true rfl)
      (Nat.le_of_ble_eq_true rfl) (fun _ => hsettled) fun h => absurd h (by simp [Phase.rank])
  | spin hp hsettled => exact hprog
  | postMux hs' hp hok =>
    obtain rfl := Option.some.inj (hs.symm.trans hs')
    have hon := Hazards.setRateOn_of_phase hinv.phase hslot (by rw [hp]; decide)
    have hv := Hazards.valid_of_setRateOn hon
    have haux := Hazards.auxp_of_setRateOn hon (Hazards.variant_eq_b_of_mux_phase hinv.phase hslot (.inr hp))
    have hkept (f : FieldId) := Hazards.fieldVal_writeWord_of_ne hinv hc hv hok
      (Hazards.fieldAddr_ne_muxAddr hinv.slots hv hv haux f)
      (insertField (s.busAt (s.muxAddr i)) (fieldMask s.cfg.auxMux) s.cfg.auxMux.shift s.cfg.selPllDiv2)
    exact progress_after_writes (fun f => (hkept f).trans (fields_of_late_rank hprog (by rw [hp]; decide) f))
      (Nat.le_of_ble_eq_true rfl) (Nat.le_of_ble_eq_true rfl) nofun fun _ => rfl
  | read hs' hmem hstep hok =>
    simp only [List.mem_cons, Instr.setRate.injEq, reduceCtorEq, List.not_mem_nil, or_false] at hmem
    subst hmem
    obtain rfl := Option.some.inj (hs.symm.trans hs')
    exact progress_read hprog hc hstep

/-! ## A step of any agent -/

/-- A step of the command leaves it before the power-down, or works on the same entry from the lookup on. -/
theorem sameTask_of_effect {s t : State} {slot : BitVec 2} (h : CmdEffect s (.setRate slot) t) :
    t.phase.rank ≤ 3 ∨ SameTask s t ∧ 2 ≤ s.phase.rank := by
  cases h with
  | raise | finish | toExec | toLookup | preMux => exact .inl (Nat.le_of_ble_eq_true rfl)
  | lookup n hs hp hn haux =>
    left
    dsimp only
    split <;> decide
  | pdOn hs hp | pdOffToDelay hs hp | pdOffToRead hs hp | delay hs hp | spin hp | postMux hs hp =>
    exact .inr ⟨{}, by rw [hp]; decide⟩
  | write hs hstep => exact .inr ⟨{}, Nat.le_trans (by decide) (Hazards.rank_of_writeStep _ hstep).1⟩
  | @read _ i _ f p hs hc hstep =>
    obtain ⟨hrank, -, hlo⟩ := readStep_ranks _ hstep
    exact .inr ⟨SameTask.readField s i f p, by dsimp only at hrank hlo; omega⟩

theorem progressOk_of_effect {s t : State} {c : Instr} (hinv : s.Inv) (hwf : Config.wf s.cfg = true)
    (hd : decode s.latch.word = .ok c) (hprog : s.progressOk = true) (h : CmdEffect s c t) : t.progressOk = true := by
  have hlatch : t.latch = s.latch := h.frame.latch
  refine progressOk_iff.mpr fun i e hslot hrank he => ?_
  rw [commandSlot_of_latch_eq hlatch] at hslot
  by_cases hset : ∃ slot, c = .setRate slot
  · obtain ⟨slot, rfl⟩ := hset
    obtain hearly | ⟨hsame, hlate⟩ := sameTask_of_effect h
    · exact setRateProgress_of_rank hearly
    · have he' : s.entry i = some e := hsame.entry i ▸ he
      have hs : SlotId.ofBits slot = some i := by
        simpa only [State.commandSlot, State.command, hd, if_true] using hslot
      exact progress_of_effect hinv hwf hd hs he' (progressOk_iff.mp hprog i e hslot hlate he') h
  · rw [commandSlot_ne_some hd (not_exists.mp hset)] at hslot
    cases hslot

/-- The passage of time: a wait that is over stays over. -/
theorem progressOk_of_advance {s : State} {d n : Nat} {ms : List Move} (hroom : s.nowUs.toNat + d < 2 ^ 64)
    (hprog : s.progressOk = true) : State.progressOk { s.advance d with draws := n, schedule := ms } = true := by
  refine progressOk_iff.mpr fun i e hslot hrank he => ?_
  obtain ⟨hpd, hfields, hread, hsettled, href⟩ := progressOk_iff.mp hprog i e hslot hrank he
  exact ⟨hpd, hfields, hread, fun hp => Steps.settled_iff.mpr
    ((Steps.settled_iff.mp (hsettled hp)).trans (by have := State.advance_toNat hroom; dsimp only; omega)), href⟩

theorem progressOk_of_step {s t : State} (hinv : s.Inv) (hprog : s.progressOk = true) (hstep : step s = .next t) :
    t.progressOk = true := by
  have h := effect_of_step hstep
  have hwf := config_wf_of_step hinv.cfg h
  cases h with
  | command ms hc hen hd h =>
    exact progressOk_of_effect (s := { s with schedule := ms }) { hinv with } hwf hd hprog h
  | illegal | accept | whileBusy | reset => exact progressOk_of_rank (Nat.le_of_ble_eq_true rfl)
  | time ms d n hc hd hroom => exact progressOk_of_advance hroom hprog
  | busWrite a v ms hc hsched hmay =>
    have hidle : s.phase = .idle := by
      obtain ⟨hbusy, -⟩ := controlOk_iff.mp hinv.control
      exact not_not.mp fun hp => absurd (hbusy.mpr hp) (by simp [(Steps.mayBusWrite_iff.mp hmay).1])
    exact progressOk_of_rank (by dsimp only [State.hostBusWrite]; rw [hidle]; decide)
  | config | look | args => exact hprog

/-- Settles O49, agent by agent. -/
theorem stepKeepsTheProgressOfSetRate : Obligations.StepKeepsTheProgressOfSetRate :=
  fun _ _ hinv hprog hstep => progressOk_of_step hinv hprog hstep

/-! ## The compute step of a `SET_RATE` (43_set_rate.md R106; 44_recalc_rate.md R125) -/

/-- A number of 64 bits, put together from the two words a command returns it in. -/
theorem toNat_words_of_lt {n : Nat} (h : n < 2 ^ 64) :
    (BitVec.ofNat 32 (n / 2 ^ 32) ++ BitVec.ofNat 32 n : DWord).toNat = n := by
  have happend : (BitVec.ofNat 32 (n / 2 ^ 32) ++ BitVec.ofNat 32 n : DWord).toNat = _ := Encoding.toNat_append_eq_add _ _
  rw [happend, BitVec.toNat_ofNat, BitVec.toNat_ofNat]
  omega

/-- The numerator and the denominator of the frequency that an entry gives at a parent rate (R122). -/
def entryNum (c : Config) (v : SlotId) (e : RateEntry) : Nat :=
  (c.parentRate.get v).toNat * (e.fbdiv.toNat * 2 ^ 24 + (entryFrac e).toNat)

def entryDen (e : RateEntry) : Nat := e.prediv.toNat * e.postdiv1.toNat * 2 ^ 24

/-- `RC_COMPUTE` works on the entry: it ends `OK` with the entry's frequency, or overflows. -/
theorem rcCompute_of_progress {s : State} {i : SlotId} {e : RateEntry} (hc : Config.wf s.cfg = true)
    (he : s.entry i = some e) (hprog : SetRateProgress s i e) (hp : s.phase = .rcCompute) :
    (entryNum s.cfg i e < 2 ^ 64 → s.rcCompute = s.finish .ok (BitVec.ofNat 32 (entryNum s.cfg i e / entryDen e))
      (BitVec.ofNat 32 (entryNum s.cfg i e / entryDen e / 2 ^ 32)) 0 false) ∧
    (2 ^ 64 ≤ entryNum s.cfg i e → s.rcCompute = s.raise .arithOverflow) := by
  have hrank : s.phase.rank = 19 := by rw [hp]; rfl
  have hread (f : FieldId) (hf : readRank f < 19) : s.readBackOf f = entryValue e f :=
    (hprog.readBacks f).resolve_left (by omega)
  have hmem := List.mem_of_getElem? he
  obtain ⟨⟨hprediv, -⟩, -, -, k, hk, -⟩ := (ConfigRules.rules_iff_wf.mpr hc).2.1.entries _ e hmem
  have hsetWidth {v : BitVec 1} {w : Word} (h : v.setWidth 32 = w) : v = w.setWidth 1 := by
    rw [← h]
    exact BitVec.eq_of_toNat_eq (by simp)
  have hdacpd : s.rbDacpd = (entryValue e .dacpd).setWidth 1 := hsetWidth (hread .dacpd (by decide))
  have hdsmpd : s.rbDsmpd = (entryValue e .dsmpd).setWidth 1 := hsetWidth (hread .dsmpd (by decide))
  have hmode : s.rbDacpd = s.rbDsmpd := hdacpd.trans hdsmpd.symm
  have hpre : s.rbPrediv = e.prediv := hread .prediv (by decide)
  have hfb : s.rbFbdiv = e.fbdiv := hread .fbdiv (by decide)
  have hpost : s.rbPostdiv = entryValue e .postdiv := hread .postdiv (by decide)
  have hrbFrac : s.rbFrac = (entryFrac e).setWidth 32 := hread .frac (by decide)
  have hfracc : s.fracc = (entryFrac e).toNat := by
    rw [State.fracc, hdacpd, hrbFrac, BitVec.toNat_setWidth, ConfigRules.entryFrac_toNat, entryValue]
    cases e.useFraction
    · rfl
    · have := e.frac.isLt
      exact (if_pos rfl).trans (Nat.mod_eq_of_lt (by rw [if_pos rfl]; omega))
  have hnum : recalcNum s.ref.toNat s.rbFbdiv.toNat s.fracc = entryNum s.cfg i e := by
    rw [hprog.ref (by omega), hfb, hfracc]
    rfl
  have hne : s.rbPrediv ≠ 0 := fun h0 => by
    rw [hpre] at h0
    simp [h0] at hprediv
  have hk32 : s.rbPostdiv.toNat = k := by
    have hlt : k < 2 ^ 32 := (Nat.lt_two_pow_self (n := k)).trans (hk ▸ e.postdiv1.isLt)
    rw [hpost, SetRate.entryValue_postdiv hk, BitVec.toNat_ofNat, Nat.mod_eq_of_lt hlt]
  have hden : s.rbPrediv.toNat * 2 ^ (24 + s.rbPostdiv.toNat) = entryDen e := by
    rw [hk32, hpre, entryDen, hk, Nat.pow_add, Nat.mul_assoc, Nat.mul_comm (2 ^ 24)]
  constructor
  · intro hfits
    rw [← hnum, ← hden]
    exact RecalcRate.rcCompute_of_fits hmode hne (hnum ▸ hfits)
  · intro hover
    exact RecalcRate.rcCompute_of_overflow hmode hne (hnum ▸ hover)

/-- Nothing runs before the parameters are checked. -/
theorem config_wf_of_busy {s : State} (hinv : s.Inv) (hp : s.phase ≠ .idle) : Config.wf s.cfg = true := by
  have hcfg := hinv.cfg
  unfold State.cfgOk at hcfg
  split at hcfg
  · exact hcfg
  · exact absurd (beq_iff_eq.mp hcfg) hp

/-- Settles O44, by what the command has achieved when it computes. -/
theorem setRateNeverReportsABadMode : Obligations.SetRateNeverReportsABadMode := by
  unfold Obligations.SetRateNeverReportsABadMode
  intro s slot i e hinv hprogOk hp hd hs he
  have hslot := Hazards.commandSlot_of_setRate hd hs
  have hprog := progressOk_iff.mp hprogOk i e hslot (by rw [hp]; decide) he
  have hc := config_wf_of_busy hinv (by rw [hp]; decide)
  have hexec := RecalcRate.exec_rcCompute (c := .setRate slot) hs (by simp) hp
  obtain ⟨hfits, hover⟩ := rcCompute_of_progress hc he hprog hp
  have hfaulted : s.faulted = false :=
    Bool.eq_false_iff.mpr fun h => absurd ((controlOk_iff.mp hinv.control).2.mp h) (by rw [hp]; decide)
  refine ⟨fun h => ⟨_, hexec, ?_⟩, fun h => ⟨_, hexec, ?_⟩⟩
  · rw [hfits h]
    exact ⟨⟨rfl, rfl⟩, rfl, toNat_words_of_lt ((Nat.div_le_self _ _).trans_lt h)⟩
  · rw [hover h]
    exact ⟨rfl, if_neg (by simp [hfaulted]), rfl⟩

end Sys2Proof.Progress
end

section
/-! PROOFS. A `RECALC_RATE` left alone (44_recalc_rate.md R113, R114, R125, R129): its eighth step computes on what the fields of the
slot hold. -/

namespace Sys2Proof.RecalcRuns

open Sys2Proof.Machine Sys2Proof.Invariant Sys2Proof.RecalcRate

/-! ## The compute step -/

theorem rcCompute_frame (s : State) :
    s.rcCompute.bus = s.bus ∧ s.rcCompute.trace = s.trace ∧ s.rcCompute.slots = s.slots := by
  obtain ⟨-, heq⟩ | ⟨-, ⟨-, heq⟩ | ⟨-, -, heq⟩ | ⟨-, -, rate, -, heq⟩⟩ := s.rcCompute_cases <;> rw [heq] <;> exact ⟨rfl, rfl, rfl⟩

/-- The fields of slot `i` as the numerator of the frequency they give at the operand (R122). -/
def registersNum (s : State) (i : SlotId) : Nat :=
  s.latch.operandLo.toNat *
    ((s.fieldVal i .fbdiv).toNat * 2 ^ 24 + if s.fieldVal i .dacpd = 0 then (s.fieldVal i .frac).toNat else 0)

/-! ## What the working registers hold after the reads -/

section
variable {s : State} {i : SlotId} (hc : Config.wf s.cfg = true)
include hc

/-- A mode field is one bit wide (42_field_codec.md R78 item 1). -/
theorem fieldVal_mode_lt {f : FieldId} (hf : f ∈ [FieldId.dacpd, .dsmpd]) : (s.fieldVal i f).toNat < 2 := by
  have hone := (ConfigRules.rules_iff_wf.mpr hc).1.oneBit (s.slot i).variant f (by simp at hf ⊢; tauto)
  have hlt : (s.fieldVal i f).toNat < 2 ^ ((s.cfg.layout.get (s.slot i).variant).get f).width :=
    FieldCodec.extractField_lt_two_pow _ _
  rwa [hone] at hlt

/-- The mode bits read back are equal exactly if the mode fields are. -/
theorem afterReads_modes_eq_iff :
    (afterReads s i).rbDacpd = (afterReads s i).rbDsmpd ↔ s.fieldVal i .dacpd = s.fieldVal i .dsmpd := by
  have hd := fieldVal_mode_lt hc (i := i) (f := .dacpd) (by simp)
  have hs := fieldVal_mode_lt hc (i := i) (f := .dsmpd) (by simp)
  simp only [afterReads, ← BitVec.toNat_inj, BitVec.toNat_setWidth]
  omega

theorem afterReads_fracc :
    (afterReads s i).fracc = if s.fieldVal i .dacpd = 0 then (s.fieldVal i .frac).toNat else 0 := by
  have hd := fieldVal_mode_lt hc (i := i) (f := .dacpd) (by simp)
  have hzero : (afterReads s i).rbDacpd = 0 ↔ s.fieldVal i .dacpd = 0 := by
    have hzero1 : (0 : BitVec 1).toNat = 0 := rfl
    have hzero32 : (0 : Word).toNat = 0 := rfl
    simp only [afterReads, ← BitVec.toNat_inj, BitVec.toNat_setWidth]
    omega
  exact if_congr hzero rfl rfl

theorem recalcNum_afterReads : recalcNum (afterReads s i).ref.toNat (afterReads s i).rbFbdiv.toNat (afterReads s i).fracc =
    registersNum s i := by
  rw [afterReads_fracc hc]
  rfl

end

/-- The slot that the latch names is the one of the command. -/
theorem latch_slot_of_recalcRate {s : State} {slot : BitVec 2} (hlatch : s.latchOk = true)
    (hd : decode s.latch.word = .ok (.recalcRate slot)) : s.latch.slot = slot := by
  obtain ⟨hword, -⟩ := Encoding.decodedWordEncodesBack _ _ hd
  simp only [State.latchOk, Bool.and_eq_true, beq_iff_eq] at hlatch
  obtain ⟨⟨⟨⟨-, hslot⟩, -⟩, -⟩, -⟩ := hlatch
  rw [hslot, ← hword, encode, Encoding.cmdSlot_cmdWord]

/-! ## The runs -/

/-- Settles O36: the compute step after the reads finds numbers it can compute with. -/
theorem recalcRunGivesTheRegistersFrequency : Obligations.RecalcRunGivesTheRegistersFrequency := by
  unfold Obligations.RecalcRunGivesTheRegistersFrequency
  intro s slot i hinv halone hp hd hs hv frac num hmode hpre hnum
  have hc := config_wf_of_inv hinv halone.1
  have hrun := run_eight (recalcRun_of_inv hinv halone hd hs hv) hp hv
  have hcompute := rcCompute_of_fits (s := afterReads s i) ((afterReads_modes_eq_iff hc).mpr hmode) hpre
    ((recalcNum_afterReads hc).trans_lt hnum)
  rw [recalcNum_afterReads hc] at hcompute
  obtain ⟨hbus, htrace, hslots⟩ := rcCompute_frame (afterReads s i)
  refine ⟨_, hrun, ?_, ?_, ?_, hbus, hslots, htrace⟩ <;> rw [hcompute]
  · exact ⟨rfl, rfl⟩
  · rfl
  · exact Progress.toNat_words_of_lt ((Nat.div_le_self _ _).trans_lt hnum)

/-- Settles O37: the compute step after the reads makes its checks in the rule's order. -/
theorem recalcRunReportsBadRegisters : Obligations.RecalcRunReportsBadRegisters := by
  unfold Obligations.RecalcRunReportsBadRegisters
  intro s slot i hinv halone hp hd hs hv frac num
  have hc := config_wf_of_inv hinv halone.1
  have hrun := run_eight (recalcRun_of_inv hinv halone hd hs hv) hp hv
  have hslot := latch_slot_of_recalcRate hinv.latch hd
  obtain ⟨hbus, htrace, -⟩ := rcCompute_frame (afterReads s i)
  have hfaulted : (afterReads s i).faulted = false :=
    Bool.eq_false_iff.mpr fun h => absurd ((controlOk_iff.mp hinv.control).2.mp h) (by rw [hp]; decide)
  have hraise {f : FaultCode} (h : (afterReads s i).rcCompute = (afterReads s i).raise f) :
      (afterReads s i).rcCompute.endedFaulted ∧ (afterReads s i).rcCompute.phase = .halted ∧
        (afterReads s i).rcCompute.fcode = f.bits ∧ (afterReads s i).rcCompute.fslot = slot := by
    rw [h]
    exact ⟨rfl, rfl, if_neg (by simp [hfaulted]), (if_neg (by simp [hfaulted])).trans hslot⟩
  refine ⟨_, hrun, hbus, htrace, fun hmode => ?_, fun hmode hpre => ?_, fun hmode hpre hnum => ?_⟩
  · rw [rcCompute_of_mixed_modes (s := afterReads s i) (mt (afterReads_modes_eq_iff hc).mp hmode)]
    exact ⟨⟨rfl, rfl⟩, rfl, rfl, rfl, rfl⟩
  · exact hraise (rcCompute_of_zero_prediv ((afterReads_modes_eq_iff hc).mpr hmode) hpre)
  · exact hraise (rcCompute_of_overflow ((afterReads_modes_eq_iff hc).mpr hmode) hpre
      (hnum.trans_eq (recalcNum_afterReads hc).symm))

end Sys2Proof.RecalcRuns
end

section
/-! PROOFS. The legs of a `SET_RATE` left alone (43_set_rate.md R104, R108): the settling wait, the stores, the reads and the result,
each with the accesses it makes. -/

namespace Sys2Proof.SetRateLegs

open Sys2Proof.Machine Sys2Proof.Effects Sys2Proof.Invariant Sys2Proof.Progress

/-! ## The settling wait (R104; 60_exceptions.md R154) -/

section
variable {slot : BitVec 2} {i : SlotId} (hs : SlotId.ofBits slot = some i)
include hs

/-- Once the wait is over, the command goes on. -/
theorem step_of_settled {s : State} (halone : s.alone) (hp : s.phase = .srDelay)
    (hd : decode s.latch.word = .ok (.setRate slot)) (hover : s.t0.toNat + 100 ≤ s.nowUs.toNat) :
    step s = .next { s with phase := .srPostMux } := by
  have hsettled : s.settled = true := Steps.settled_iff.mpr hover
  rw [SetRate.step_alone_of_enabled halone (by rw [Steps.seqEnabled_of_srDelay hp, hsettled]) hd,
    Steps.exec_srDelay_of_settled hs hp hsettled]

/-- A command that waits with at most `m` microseconds to go, left alone, goes on after at most `m` steps of the time source and
one of its own. -/
theorem run_of_srDelay (m : Nat) : ∀ s : State,
    s.alone → s.phase = .srDelay → decode s.latch.word = .ok (.setRate slot) → s.t0.toNat + 100 < 2 ^ 64 →
    s.t0.toNat + 100 ≤ s.nowUs.toNat + m →
    ∃ k now n, k ≤ m + 1 ∧ s.t0.toNat + 100 ≤ now.toNat ∧ s.nowUs.toNat ≤ now.toNat ∧
      Host.Core.run Sys2Proof.core k s = .next { s with phase := .srPostMux, nowUs := now, draws := n } := by
  induction m with
  | zero =>
    intro s halone hp hd hroom hleft
    exact ⟨1, s.nowUs, s.draws, le_rfl, hleft, le_rfl, by rw [run_succ (step_of_settled hs halone hp hd hleft), run_zero]⟩
  | succ m ih =>
    intro s halone hp hd hroom hleft
    by_cases hover : s.t0.toNat + 100 ≤ s.nowUs.toNat
    · exact ⟨1, s.nowUs, s.draws, by omega, hover, le_rfl,
        by rw [run_succ (step_of_settled hs halone hp hd hover), run_zero]⟩
    · have hen : s.seqEnabled = false := by
        rw [Steps.seqEnabled_of_srDelay hp]
        exact Bool.eq_false_iff.mpr (mt Steps.settled_iff.mp hover)
      obtain ⟨d, hd1, hlt, hstep⟩ := Steps.step_time halone hen (by omega)
      have hnow : (BitVec.ofNat 64 (s.nowUs.toNat + d)).toNat = s.nowUs.toNat + d := by
        rw [BitVec.toNat_ofNat, Nat.mod_eq_of_lt hlt]
      obtain ⟨k, now, n, hk, hwait, hle, hrun⟩ := ih
        { s with nowUs := BitVec.ofNat 64 (s.nowUs.toNat + d), draws := s.draws + 1 } halone hp hd hroom
        (by dsimp only; omega)
      exact ⟨k + 1, now, n, by omega, hwait, by dsimp only at hle; omega, (run_succ hstep).trans hrun⟩

end

/-- Settles O43, by the time that is left to wait. -/
theorem settlingWaitEnds : Obligations.SettlingWaitEnds := by
  unfold Obligations.SettlingWaitEnds
  intro s slot i halone hp hd hs hroom hstarted
  obtain ⟨k, now, n, hk, hwait, -, hrun⟩ := run_of_srDelay hs 100 s halone hp hd hroom (by omega)
  exact ⟨k, _, hk, hrun, rfl, rfl, hwait, rfl, rfl⟩

/-! ## A leg of a run -/

/-- `k` steps lead from `s` to `t` on the task of `s`: `d` microseconds pass, the accesses have the shapes `acc`, and no byte
changes but of the registers stored to. -/
structure Leg (k d : Nat) (acc : List (Bool × Nat)) (s t : State) : Prop where
  run : Host.Core.run Sys2Proof.core k s = .next t
  task : SameTask s t
  alone : s.alone → t.alone
  time : t.nowUs.toNat = s.nowUs.toNat + d
  shape : t.trace.map BusEvent.shape = s.trace.map BusEvent.shape ++ acc
  bytes : ∀ b, (∀ a, (true, a) ∈ acc → ¬ inRegister a b) → t.bus.readByte b = s.bus.readByte b

section
variable {j k d d' : Nat} {acc acc' : List (Bool × Nat)} {s t u : State}

theorem SameTask.trans (h : SameTask s t) (h' : SameTask t u) : SameTask s u :=
  ⟨h'.latch.trans h.latch, h'.slots.trans h.slots, h'.cfg.trans h.cfg, h'.idx.trans h.idx⟩

theorem Leg.trans (h : Leg j d acc s t) (h' : Leg k d' acc' t u) : Leg (j + k) (d + d') (acc ++ acc') s u where
  run := (run_add h.run).trans h'.run
  task := SameTask.trans h.task h'.task
  alone := h'.alone ∘ h.alone
  time := by rw [h'.time, h.time, Nat.add_assoc]
  shape := by rw [h'.shape, h.shape, List.append_assoc]
  bytes := fun b hb => (h'.bytes b fun a ha => hb a (List.mem_append_right _ ha)).trans
    (h.bytes b fun a ha => hb a (List.mem_append_left _ ha))

theorem Leg.zero (s : State) : Leg 0 0 [] s s where
  run := rfl
  task := {}
  alone := id
  time := rfl
  shape := by simp
  bytes := fun _ _ => rfl

/-- The accesses are counted by their shapes. -/
theorem Leg.trace_length (h : Leg k d acc s t) : t.trace.length = s.trace.length + acc.length := by
  simpa only [List.length_map, List.length_append] using congrArg List.length h.shape

/-- The registers that no leg stores to keep their words. -/
theorem Leg.busAt (h : Leg k d acc s t) {r : Nat} (hr : ∀ a, (true, a) ∈ acc → r + 4 ≤ a ∨ a + 4 ≤ r) :
    t.busAt r = s.busAt r := by
  rw [State.busAt, State.busAt, h.task.cfg]
  refine Memory.readWord_congr _ fun b hlo hhi => h.bytes b fun a ha hin => ?_
  obtain ⟨hin1, hin2⟩ := hin
  have := hr a ha
  omega

theorem inv_of_run : ∀ {s : State}, Host.Core.run Sys2Proof.core k s = .next t → s.Inv → s.progressOk = true →
    t.Inv ∧ t.progressOk = true := by
  induction k with
  | zero =>
    intro s h hinv hprog
    cases Host.Outcome.next.inj h
    exact ⟨hinv, hprog⟩
  | succ k ih =>
    intro s h hinv hprog
    cases hstep : step s with
    | next u => exact ih ((run_succ hstep).symm.trans h) (inv_of_step hinv hstep) (progressOk_of_step hinv hprog hstep)
    | fault r | refused r =>
      have hcore : Sys2Proof.core.step s = _ := hstep
      simp only [Host.Core.run, hcore, reduceCtorEq] at h

end

/-! ## The steps of a `SET_RATE` on the entry it found -/

/-- `u` is a state of a run, left alone, that goes on with the task of `s`. -/
structure OnTask (s u : State) : Prop where
  inv : u.Inv
  progress : u.progressOk = true
  alone : u.alone
  task : SameTask s u

theorem OnTask.leg {k d : Nat} {acc : List (Bool × Nat)} {s u t : State} (h : OnTask s u) (hleg : Leg k d acc u t) :
    OnTask s t where
  inv := (inv_of_run hleg.run h.inv h.progress).1
  progress := (inv_of_run hleg.run h.inv h.progress).2
  alone := hleg.alone h.alone
  task := SameTask.trans h.task hleg.task

section
variable {s : State} {slot : BitVec 2} {i : SlotId} {e : RateEntry} (hd : decode s.latch.word = .ok (.setRate slot))
  (hs : SlotId.ofBits slot = some i) (hv : (s.slot i).valid = true) (he : s.entry i = some e)

theorem seqEnabled_of_writeStep {u : State} {f : FieldId} {p : Phase} (hstep : (f, u.phase, p) ∈ writeSteps) :
    u.seqEnabled = true := by
  simp only [writeSteps, List.mem_cons, Prod.mk.injEq, List.not_mem_nil, or_false] at hstep
  obtain ⟨-, hp, -⟩ | ⟨-, hp, -⟩ | ⟨-, hp, -⟩ | ⟨-, hp, -⟩ | ⟨-, hp, -⟩ | ⟨-, hp, -⟩ := hstep <;>
    rw [State.seqEnabled, hp]

section
variable {u t : State} (h : OnTask s u)
include h

theorem OnTask.fieldAddr (f : FieldId) : u.fieldAddr i f = s.fieldAddr i f := by
  simp only [State.fieldAddr, State.slotLayout, State.layoutOf, h.task.slot, h.task.cfg]

theorem OnTask.muxAddr : u.muxAddr i = s.muxAddr i := by
  simp only [State.muxAddr, h.task.slot, h.task.cfg]

theorem OnTask.config_wf : Config.wf u.cfg = true := RecalcRate.config_wf_of_inv h.inv h.alone.1

include hv in
theorem OnTask.busOk (f : FieldId) : u.busOk (u.fieldAddr i f) = true :=
  RecalcRate.busOk_fieldAddr_of_valid h.inv.slots h.config_wf ((h.task.slot i).symm ▸ hv) f

include hd in
theorem OnTask.word : decode u.latch.word = .ok (.setRate slot) := h.task.latch.symm ▸ hd

include hd hs he in
/-- What the command has achieved. -/
theorem OnTask.achieved (hrank : 2 ≤ u.phase.rank) : SetRateProgress u i e :=
  progressOk_iff.mp h.progress i e (Hazards.commandSlot_of_setRate (h.word hd) hs) hrank ((h.task.entry i).trans he)

include hd in
/-- A step of the sequencer is a leg; what it accesses is to be said. -/
theorem OnTask.leg_of_exec {acc : List (Bool × Nat)} (hen : u.seqEnabled = true) (hexec : exec (.setRate slot) u = .next t)
    (hidx : t.idx = u.idx) (hshape : t.trace.map BusEvent.shape = u.trace.map BusEvent.shape ++ acc)
    (hbytes : ∀ b, (∀ a, (true, a) ∈ acc → ¬ inRegister a b) → t.bus.readByte b = u.bus.readByte b) :
    Leg 1 0 acc u t where
  run := by rw [run_succ ((SetRate.step_alone_of_enabled h.alone hen (h.word hd)).trans hexec), run_zero]
  task :=
    have hframe := (effect_of_exec hexec).frame
    ⟨hframe.latch, hframe.slots.slots_eq (by simp), hframe.cfg, hidx⟩
  alone := fun ⟨hchecked, hsched⟩ =>
    have hframe := (effect_of_exec hexec).frame
    ⟨hframe.cfgChecked.trans hchecked, hframe.schedule.trans hsched⟩
  time := congrArg BitVec.toNat (effect_of_exec hexec).frame.nowUs
  shape := hshape
  bytes := hbytes

include hd in
/-- A step that makes one `RMW`. -/
theorem OnTask.leg_of_rmw {a : Nat} {l : FieldLayout} {x : Word} (hen : u.seqEnabled = true)
    (hexec : exec (.setRate slot) u = .next t) (hidx : t.idx = u.idx) (hbus : t.bus = (u.rmw a l x).bus)
    (htrace : t.trace = (u.rmw a l x).trace) : Leg 1 0 (rmwShape a) u t :=
  h.leg_of_exec hd hen hexec hidx (by simp [htrace, State.rmw_trace, rmwShape, BusEvent.shape]) fun b hb => by
    have hout : ¬ inRegister a b := hb a (by simp [rmwShape])
    rw [hbus]
    refine State.rmw_readByte_outside u l x ?_
    rw [inRegister] at hout
    omega

include hd hs hv in
theorem OnTask.pdOn (hp : u.phase = .srPdOn) :
    ∃ t, Leg 1 0 (rmwShape (s.fieldAddr i .pd)) u t ∧ t.phase = .srWDacpd := by
  have hexec := SetRate.exec_srPdOn hs hp (h.busOk hv .pd)
  rw [← h.fieldAddr]
  exact ⟨_, h.leg_of_rmw hd (by rw [State.seqEnabled, hp]) hexec rfl rfl rfl, rfl⟩

include hd hs hv he in
theorem OnTask.write {f : FieldId} {p : Phase} (hstep : (f, u.phase, p) ∈ writeSteps) :
    ∃ t, Leg 1 0 (rmwShape (s.fieldAddr i f)) u t ∧ t.phase = p := by
  have hexec := SetRate.exec_writeStep hs hstep ((h.task.entry i).trans he) (h.busOk hv f)
  rw [← h.fieldAddr]
  exact ⟨_, h.leg_of_rmw hd (seqEnabled_of_writeStep hstep) hexec rfl rfl rfl, rfl⟩

include hd hs hv in
theorem OnTask.read {f : FieldId} {p : Phase} (hstep : (f, u.phase, p) ∈ RecalcRate.readSteps) :
    ∃ t, Leg 1 0 [(false, s.fieldAddr i f)] u t ∧ t.phase = p := by
  have hexec := RecalcRate.exec_readStep (c := .setRate slot) hs (by simp) hstep (h.busOk hv f)
  rw [← h.fieldAddr]
  refine ⟨_, h.leg_of_exec hd (RecalcRate.seqEnabled_of_readStep rfl hstep) hexec (SameTask.readField u i f p).idx ?_ ?_,
    readField_phase u i f p⟩
  · cases f <;> simp [RecalcRate.readField, BusEvent.shape]
  · cases f <;> exact fun _ _ => rfl

include hd hs hv in
/-- `SR_PD_OFF` of a variant without a mux step: on to the reads. -/
theorem OnTask.pdOff (hp : u.phase = .srPdOff) (hb : (s.slot i).variant ≠ .b) :
    ∃ t, Leg 1 0 (rmwShape (s.fieldAddr i .pd)) u t ∧ t.phase = .rcRDacpd := by
  have hexec := SetRate.exec_srPdOff hs hp (h.busOk hv .pd)
  rw [h.task.slot, if_neg hb] at hexec
  rw [← h.fieldAddr]
  exact ⟨_, h.leg_of_rmw hd (by rw [State.seqEnabled, hp]) hexec rfl rfl rfl, rfl⟩

include hd hs hv in
/-- `SR_PD_OFF` of variant B: the settling wait begins. -/
theorem OnTask.pdOff_b (hp : u.phase = .srPdOff) (hb : (s.slot i).variant = .b) :
    ∃ t, Leg 1 0 (rmwShape (s.fieldAddr i .pd)) u t ∧ t.phase = .srDelay ∧ t.t0 = u.nowUs := by
  have hexec := SetRate.exec_srPdOff hs hp (h.busOk hv .pd)
  rw [h.task.slot, if_pos hb] at hexec
  rw [← h.fieldAddr]
  exact ⟨_, h.leg_of_rmw hd (by rw [State.seqEnabled, hp]) hexec rfl rfl rfl, rfl, rfl⟩

include hd hs in
/-- The settling wait: at least 100 microseconds from `T0` on, and no access. -/
theorem OnTask.delay (hp : u.phase = .srDelay) (hnow : u.t0 = u.nowUs) (hroom : u.nowUs.toNat + 100 < 2 ^ 64) :
    ∃ k d t, k ≤ 101 ∧ 100 ≤ d ∧ Leg k d [] u t ∧ t.phase = .srPostMux := by
  obtain ⟨k, now, n, hk, hwait, -, hrun⟩ :=
    run_of_srDelay hs 100 u h.alone hp (h.word hd) (by rwa [hnow]) (by rw [hnow])
  rw [hnow] at hwait
  exact ⟨k, now.toNat - u.nowUs.toNat, _, hk, by omega,
    ⟨hrun, {}, id, by dsimp only; omega, by simp, fun _ _ => rfl⟩, rfl⟩

section
variable (haux : (s.slot i).auxp = true)
include hv haux

theorem OnTask.busOk_mux : u.busOk (u.muxAddr i) = true :=
  Safety.busOk_muxAddr_of_valid h.inv.slots h.config_wf ((h.task.slot i).symm ▸ hv) ((h.task.slot i).symm ▸ haux)

include hd hs

theorem OnTask.preMux (hp : u.phase = .srPreMux) :
    ∃ t, Leg 1 0 (rmwShape (s.muxAddr i)) u t ∧ t.phase = .srPdOn := by
  have hexec := SetRate.exec_srPreMux hs hp (h.busOk_mux hv haux)
  rw [← h.muxAddr]
  exact ⟨_, h.leg_of_rmw hd (by rw [State.seqEnabled, hp]) hexec rfl rfl rfl, rfl⟩

/-- `SR_POST_MUX`: the mux field holds `SEL_PLL_DIV2` (R105). -/
theorem OnTask.postMux (hp : u.phase = .srPostMux) :
    ∃ t, Leg 1 0 (rmwShape (s.muxAddr i)) u t ∧ t.phase = .rcRDacpd ∧ t.muxVal i = s.cfg.selPllDiv2 := by
  have hexec := SetRate.exec_srPostMux hs hp (h.busOk_mux hv haux)
  obtain ⟨hlayout, -, -⟩ := ConfigRules.rules_iff_wf.mpr h.config_wf
  obtain ⟨-, hinside, -, -, hsel⟩ := hlayout.mux
  rw [← h.muxAddr, ← h.task.cfg]
  refine ⟨_, h.leg_of_rmw hd (by rw [State.seqEnabled, hp]) hexec rfl rfl rfl, rfl, ?_⟩
  change extractField ((u.rmw (u.muxAddr i) u.cfg.auxMux u.cfg.selPllDiv2).busAt (u.muxAddr i))
    (fieldMask u.cfg.auxMux) u.cfg.auxMux.shift = u.cfg.selPllDiv2
  rw [State.rmw_busAt_same h.inv.bus]
  exact FieldCodec.extractField_insertField_same _ hinside hsel

end

include hd hs he in
/-- `RC_COMPUTE`, when it ends well: no access, and the fields of the entry are on the bus. -/
theorem OnTask.leg_of_finish {r0 r1 : Word} (hp : u.phase = .rcCompute) (hend : u.rcCompute = u.finish .ok r0 r1 0 false) :
    Leg 1 0 [] u (u.finish .ok r0 r1 0 false) ∧ ∀ f, (u.finish .ok r0 r1 0 false).fieldVal i f = entryValue e f := by
  have hexec := RecalcRate.exec_rcCompute (c := .setRate slot) hs (by simp) hp
  rw [hend] at hexec
  have hfields := fields_of_late_rank (h.achieved hd hs he (by rw [hp]; decide)) (by rw [hp]; decide)
  exact ⟨h.leg_of_exec hd (by rw [State.seqEnabled, hp]) hexec rfl (by simp [State.finish]) fun _ _ => rfl, hfields⟩

include hd hs he in
/-- `RC_COMPUTE`: the command ends with the frequency of the entry (R112). -/
theorem OnTask.compute (hp : u.phase = .rcCompute) (hfits : entryNum s.cfg i e < 2 ^ 64) :
    ∃ t, Leg 1 0 [] u t ∧ t.ended ∧ t.code = 0 ∧
      (t.res1 ++ t.res0 : DWord).toNat = entryNum s.cfg i e / entryDen e ∧ ∀ f, t.fieldVal i f = entryValue e f := by
  have hachieved := h.achieved hd hs he (by rw [hp]; decide)
  obtain ⟨hcompute, -⟩ := rcCompute_of_progress h.config_wf ((h.task.entry i).trans he) hachieved hp
  rw [h.task.cfg] at hcompute
  obtain ⟨hleg, hfields⟩ := h.leg_of_finish hd hs he hp (hcompute hfits)
  exact ⟨_, hleg, ⟨rfl, rfl⟩, rfl, toNat_words_of_lt ((Nat.div_le_self _ _).trans_lt hfits), hfields⟩

end

/-! ## Runs of linked steps -/

/-- Each step of the list begins in the phase in which the one before it ended, the first in `p`; the last ends in `q`. -/
def Linked (q : Phase) : Phase → List (FieldId × Phase × Phase) → Prop
  | p, [] => p = q
  | p, w :: ws => p = w.2.1 ∧ Linked q w.2.2 ws

theorem linked_writeSteps : Linked .srPdOff .srWDacpd writeSteps := ⟨rfl, rfl, rfl, rfl, rfl, rfl, rfl⟩

theorem linked_readSteps : Linked .rcCompute .rcRDacpd RecalcRate.readSteps := ⟨rfl, rfl, rfl, rfl, rfl, rfl, rfl⟩

/-- Linked steps, each a leg of its own, make one leg. -/
theorem leg_of_linked {acc : FieldId → List (Bool × Nat)} {q : Phase} : ∀ {ws : List (FieldId × Phase × Phase)} {u : State},
    (∀ w ∈ ws, ∀ u, OnTask s u → u.phase = w.2.1 → ∃ t, Leg 1 0 (acc w.1) u t ∧ t.phase = w.2.2) →
    OnTask s u → Linked q u.phase ws →
    ∃ t, Leg ws.length 0 (ws.map fun w => acc w.1).flatten u t ∧ t.phase = q
  | [], u, _, _, hlinked => ⟨u, Leg.zero u, hlinked⟩
  | w :: ws, u, hstep, h, ⟨hp, hlinked⟩ => by
    obtain ⟨t, hleg, hphase⟩ := hstep w List.mem_cons_self u h hp
    obtain ⟨t', hlegs, hphase'⟩ := leg_of_linked (fun w' hw' => hstep w' (List.mem_cons_of_mem _ hw')) (h.leg hleg)
      (hphase ▸ hlinked)
    have hboth := hleg.trans hlegs
    rw [Nat.add_comm] at hboth
    exact ⟨t', hboth, hphase'⟩

include hd hs hv he in
/-- The six writes, in the order of R102. -/
theorem OnTask.writes {u : State} (h : OnTask s u) (hp : u.phase = .srWDacpd) :
    ∃ t, Leg 6 0 (writeOrder.map fun f => rmwShape (s.fieldAddr i f)).flatten u t ∧ t.phase = .srPdOff :=
  leg_of_linked (ws := writeSteps) (acc := fun f => rmwShape (s.fieldAddr i f))
    (fun _ hw _ hu hphase => hu.write hd hs hv he (by rw [hphase]; exact hw)) h (hp ▸ linked_writeSteps)

include hd hs hv in
/-- The six reads, in the order of 44_recalc_rate.md R114. -/
theorem OnTask.reads {u : State} (h : OnTask s u) (hp : u.phase = .rcRDacpd) :
    ∃ t, Leg 6 0 (s.recalcShape i) u t ∧ t.phase = .rcCompute :=
  leg_of_linked (ws := RecalcRate.readSteps) (acc := fun f => [(false, s.fieldAddr i f)])
    (fun _ hw _ hu hphase => hu.read hd hs hv (by rw [hphase]; exact hw)) h (hp ▸ linked_readSteps)

end

end Sys2Proof.SetRateLegs
end

section
/-! PROOFS. A `SET_RATE` left alone, from its `DECODE` step to its result (43_set_rate.md R108 to R112; 70_reset_and_hazards.md R173). -/

namespace Sys2Proof.SetRateRuns

open Sys2Proof.Machine Sys2Proof.Invariant Sys2Proof.Progress Sys2Proof.SetRateLegs

/-! ## The lookup -/

/-- The state after the lookup has found entry `n` for slot `i`. -/
def afterLookup (s : State) (i : SlotId) (n : Nat) : State :=
  { s with idx := BitVec.ofNat 4 n, phase := if (s.slot i).variant = .b then .srPreMux else .srPdOn }

section
variable {s : State} {slot : BitVec 2} {i : SlotId} {n : Nat} {e : RateEntry} (hinv : s.Inv) (halone : s.alone)
  (hp : s.phase = .decode) (hd : decode s.latch.word = .ok (.setRate slot)) (hs : SlotId.ofBits slot = some i)
  (hv : (s.slot i).valid = true) (haux : (s.slot i).variant = .b → (s.slot i).auxp = true)
  (hn : (s.cfg.rateTable.get (s.slot i).variant)[n]? = some e) (ht : e.target = s.latch.operandLo)

section
include hinv halone hp hd hs hv haux hn ht

/-- `DECODE` and `SR_LOOKUP`: the entry is found, nothing else changes. -/
theorem run_lookup : Host.Core.run Sys2Proof.core 2 s = .next (afterLookup s i n) := by
  have hdecode := SetRate.step_alone_of_enabled halone (by rw [State.seqEnabled, hp]) hd
  rw [SetRate.exec_decode hs hp hv] at hdecode
  have hlookup := SetRate.step_alone_of_enabled (s := { s with phase := .srLookup }) halone rfl hd
  have hfound := SetRate.srLookup_of_entry (s := { s with phase := .srLookup }) (i := i)
    (SetRate.targetsDistinct_of_wf (RecalcRate.config_wf_of_inv hinv halone.1) _) hn ht
  rw [if_neg fun ⟨hb, hno⟩ => hno (haux hb)] at hfound
  rw [SetRate.exec_srLookup hs rfl, hfound] at hlookup
  rw [run_succ hdecode, run_succ hlookup, run_zero]
  rfl

theorem onTask_afterLookup : OnTask (afterLookup s i n) (afterLookup s i n) :=
  have hkept := inv_of_run (run_lookup hinv halone hp hd hs hv haux hn ht) hinv (progressOk_of_rank (by rw [hp]; decide))
  ⟨hkept.1, hkept.2, halone, {}⟩

end

include hinv halone hn in
theorem entry_afterLookup : (afterLookup s i n).entry i = some e := by
  change (s.cfg.rateTable.get (s.slot i).variant)[(BitVec.ofNat 4 n).toNat]? = some e
  rw [index_toNat (RecalcRate.config_wf_of_inv hinv halone.1) hn, hn]

end

/-! ## The rest of the command -/

section
variable {s u : State} {slot : BitVec 2} {i : SlotId} {e : RateEntry} (hd : decode s.latch.word = .ok (.setRate slot))
  (hs : SlotId.ofBits slot = some i) (hv : (s.slot i).valid = true) (he : s.entry i = some e) (h : OnTask s u)
include hd hs hv he h

/-- `PD` on and the six writes. -/
theorem leg_powerDown (hp : u.phase = .srPdOn) :
    ∃ t, Leg 7 0 (rmwShape (s.fieldAddr i .pd) ++ (writeOrder.map fun f => rmwShape (s.fieldAddr i f)).flatten) u t ∧
      t.phase = .srPdOff := by
  obtain ⟨t, hpd, hphase⟩ := h.pdOn hd hs hv hp
  obtain ⟨t', hwrites, hphase'⟩ := (h.leg hpd).writes hd hs hv he hphase
  exact ⟨t', hpd.trans hwrites, hphase'⟩

/-- The reads and the result, which leave every register as it is. -/
theorem leg_finish (hp : u.phase = .rcRDacpd) (hfits : entryNum s.cfg i e < 2 ^ 64) :
    ∃ t, Leg 7 0 (s.recalcShape i) u t ∧ t.ended ∧ t.code = 0 ∧
      (t.res1 ++ t.res0 : DWord).toNat = entryNum s.cfg i e / entryDen e ∧ ∀ f, t.fieldVal i f = entryValue e f := by
  obtain ⟨t, hreads, hphase⟩ := h.reads hd hs hv hp
  obtain ⟨t', hcompute, hend⟩ := (h.leg hreads).compute hd hs he hphase hfits
  have hboth := hreads.trans hcompute
  rw [List.append_nil] at hboth
  exact ⟨t', hboth, hend⟩

/-- Variants A and C, from `SR_PD_ON` on. -/
theorem leg_program (hb : (s.slot i).variant ≠ .b) (hp : u.phase = .srPdOn) (hfits : entryNum s.cfg i e < 2 ^ 64) :
    ∃ t, Leg 15 0 (s.bracketShape i ++ s.recalcShape i) u t ∧ t.ended ∧ t.code = 0 ∧
      (t.res1 ++ t.res0 : DWord).toNat = entryNum s.cfg i e / entryDen e ∧ ∀ f, t.fieldVal i f = entryValue e f := by
  obtain ⟨t1, hdown, hphase1⟩ := leg_powerDown hd hs hv he h hp
  have h1 := h.leg hdown
  obtain ⟨t2, hoff, hphase2⟩ := h1.pdOff hd hs hv hphase1 hb
  obtain ⟨t, hfinish, hend⟩ := leg_finish hd hs hv he (h1.leg hoff) hphase2 hfits
  exact ⟨t, (hdown.trans hoff).trans hfinish, hend⟩

/-- Variant B, from `SR_PRE_MUX` on. -/
theorem leg_program_b (hb : (s.slot i).variant = .b) (haux : (s.slot i).auxp = true) (hp : u.phase = .srPreMux)
    (hroom : u.nowUs.toNat + 100 < 2 ^ 64) (hfits : entryNum s.cfg i e < 2 ^ 64) :
    ∃ k d t, k ≤ 118 ∧ 100 ≤ d ∧
      Leg k d (rmwShape (s.muxAddr i) ++ s.bracketShape i ++ rmwShape (s.muxAddr i) ++ s.recalcShape i) u t ∧
      t.ended ∧ t.code = 0 ∧ (t.res1 ++ t.res0 : DWord).toNat = entryNum s.cfg i e / entryDen e ∧
      (∀ f, t.fieldVal i f = entryValue e f) ∧ t.muxVal i = s.cfg.selPllDiv2 := by
  obtain ⟨t1, hpre, hphase1⟩ := h.preMux hd hs hv haux hp
  have h1 := h.leg hpre
  obtain ⟨t2, hdown, hphase2⟩ := leg_powerDown hd hs hv he h1 hphase1
  have h2 := h1.leg hdown
  obtain ⟨t3, hoff, hphase3, ht0⟩ := h2.pdOff_b hd hs hv hphase2 hb
  have h3 := h2.leg hoff
  have hbefore := hpre.trans (hdown.trans hoff)
  have hnow : t3.t0 = t3.nowUs := ht0.trans (BitVec.eq_of_toNat_eq hoff.time.symm)
  obtain ⟨k, d, t4, hk, hwait, hdelay, hphase4⟩ := h3.delay hd hs hphase3 hnow
    (by have := hbefore.time; omega)
  have h4 := h3.leg hdelay
  obtain ⟨t5, hpost, hphase5, hmux⟩ := h4.postMux hd hs hv haux hphase4
  have h5 := h4.leg hpost
  obtain ⟨t, hfinish, hended, hcode, hres, hfields⟩ := leg_finish hd hs hv he h5 hphase5 hfits
  have hall := hbefore.trans (hdelay.trans (hpost.trans hfinish))
  have hmux' : t.muxVal i = t5.muxVal i := by
    rw [State.muxVal, State.muxVal, (h5.leg hfinish).muxAddr, h5.muxAddr, hfinish.busAt (by simp [State.recalcShape]),
      hfinish.task.cfg]
  refine ⟨_, _, t, ?_, ?_, by simpa only [State.bracketShape, List.append_assoc, List.nil_append] using hall, hended, hcode, hres,
    hfields, hmux'.trans hmux⟩ <;> omega

end

/-! ## Which bytes the accesses store to -/

theorem mem_bracketShape {s : State} {i : SlotId} {a : Nat} (h : (true, a) ∈ s.bracketShape i) :
    ∃ f, a = s.fieldAddr i f := by
  simp only [State.bracketShape, rmwShape, writeOrder, List.map_cons, List.map_nil, List.flatten_cons, List.flatten_nil,
    List.mem_append, List.mem_cons, Prod.mk.injEq, List.not_mem_nil, reduceCtorEq, false_and, true_and, false_or,
    or_false] at h
  grind

theorem not_mem_recalcShape {s : State} {i : SlotId} {a : Nat} : (true, a) ∉ s.recalcShape i := by
  simp [State.recalcShape]

/-- Settles O40, leg by leg. -/
theorem setRateRunProgramsVariantsAAndC : Obligations.SetRateRunProgramsVariantsAAndC := by
  unfold Obligations.SetRateRunProgramsVariantsAAndC
  intro s slot i n e hinv halone hp hd hs hv hb hn ht num hfits
  have haux : (s.slot i).variant = .b → (s.slot i).auxp = true := fun h => absurd h hb
  obtain ⟨t, hleg, hended, hcode, hres, hfields⟩ :=
    leg_program (s := afterLookup s i n) hd hs hv (entry_afterLookup hinv halone hn)
      (onTask_afterLookup hinv halone hp hd hs hv haux hn ht) hb (if_neg hb) hfits
  refine ⟨t, (run_add (run_lookup hinv halone hp hd hs hv haux hn ht)).trans hleg.run, hended, hcode, hres, hfields, ?_,
    hleg.trace_length, hleg.task.slots, fun b hout => hleg.bytes b fun a ha => ?_⟩
  · rw [List.append_assoc]
    exact hleg.shape
  · obtain ⟨f, rfl⟩ := mem_bracketShape ((List.mem_append.mp ha).resolve_right not_mem_recalcShape)
    exact hout f

/-- Settles O41, leg by leg, the settling wait between the two mux steps. -/
theorem setRateRunHandsVariantBOver : Obligations.SetRateRunHandsVariantBOver := by
  unfold Obligations.SetRateRunHandsVariantBOver
  intro s slot i n e hinv halone hp hd hs hv hb hauxp hn ht hroom num hfits
  have haux : (s.slot i).variant = .b → (s.slot i).auxp = true := fun _ => hauxp
  rw [← hb] at hn
  obtain ⟨k, d, t, hk, hwait, hleg, hended, hcode, hres, hfields, hmux⟩ :=
    leg_program_b (s := afterLookup s i n) hd hs hv (entry_afterLookup hinv halone hn)
      (onTask_afterLookup hinv halone hp hd hs hv haux hn ht) hb hauxp (if_pos hb) hroom hfits
  refine ⟨2 + k, t, by omega, (run_add (run_lookup hinv halone hp hd hs hv haux hn ht)).trans hleg.run, hended, hcode, hres,
    hfields, hmux, ?_, hleg.trace_length, ?_, fun b hout houtMux => hleg.bytes b fun a ha => ?_⟩
  · have hshape := hleg.shape
    simp only [← List.append_assoc] at hshape
    exact hshape
  · have htime : t.nowUs.toNat = s.nowUs.toNat + d := hleg.time
    omega
  · have hmem : (true, a) ∈ s.bracketShape i ∨ (true, a) ∈ rmwShape (s.muxAddr i) := by
      have hnot := not_mem_recalcShape (s := afterLookup s i n) (i := i) (a := a)
      simp only [List.mem_append, hnot, or_false] at ha
      tauto
    obtain hfield | hmux := hmem
    · obtain ⟨f, rfl⟩ := mem_bracketShape hfield
      exact hout f
    · obtain rfl : a = s.muxAddr i := by simpa [rmwShape] using hmux
      exact houtMux

/-! ## The rate asked for (R112; 41_rate_lookup.md R72 item 7) -/

/-- At the reference of the table, an entry gives its target, without overflow. -/
theorem entry_roundTrip {c : Config} (hc : Config.wf c = true) {i : SlotId} {v : Variant} {e : RateEntry}
    (he : e ∈ c.rateTable.get v) (href : c.parentRate.get i = c.tableRefHz.get v) :
    entryNum c i e < 2 ^ 64 ∧ entryNum c i e / entryDen e = e.target.toNat := by
  obtain ⟨k, hk, -, hfits, htarget⟩ := ((ConfigRules.rules_iff_wf.mpr hc).2.1.entries v e he).roundTrip
  rw [← ConfigRules.entryFrac_toNat, ← href] at hfits htarget
  have hden : entryDen e = e.prediv.toNat * 2 ^ (24 + k) := by
    rw [entryDen, hk, Nat.pow_add, Nat.mul_assoc, Nat.mul_comm (2 ^ 24)]
  exact ⟨hfits, hden ▸ htarget⟩

/-- Two words are those of the 64-bit number they make. -/
theorem words_eq_of_toNat_eq {a b c d : Word} (h : (a ++ b : DWord).toNat = (c ++ d : DWord).toNat) : a = c ∧ b = d := by
  have hleft : (a ++ b : DWord).toNat = _ := Encoding.toNat_append_eq_add a b
  have hright : (c ++ d : DWord).toNat = _ := Encoding.toNat_append_eq_add c d
  constructor <;> apply BitVec.eq_of_toNat_eq <;> omega

/-- Settles O42: the run of each variant returns the entry's frequency, which is then the target. -/
theorem setRateReturnsTheRateAskedFor : Obligations.SetRateReturnsTheRateAskedFor := by
  unfold Obligations.SetRateReturnsTheRateAskedFor
  intro s slot i n e hinv halone hp hd hs hv hn ht href
  obtain ⟨hfits, hrate⟩ := entry_roundTrip (RecalcRate.config_wf_of_inv hinv halone.1) (List.mem_of_getElem? hn) href
  have hwords {t : State} (h : (t.res1 ++ t.res0 : DWord).toNat = entryNum s.cfg i e / entryDen e) :
      t.res1 = s.latch.arg1 ∧ t.res0 = s.latch.arg0 :=
    words_eq_of_toNat_eq (by rw [h, hrate, ht])
  constructor
  · intro hb
    obtain ⟨t, hrun, hended, hcode, hres, -⟩ :=
      setRateRunProgramsVariantsAAndC s slot i n e hinv halone hp hd hs hv hb hn ht hfits
    exact ⟨t, hrun, hended, hcode, hwords hres⟩
  · intro hb haux hroom
    rw [hb] at hn
    obtain ⟨k, t, hk, hrun, hended, hcode, hres, -⟩ :=
      setRateRunHandsVariantBOver s slot i n e hinv halone hp hd hs hv hb haux hn ht hroom hfits
    exact ⟨k, t, hk, hrun, hended, hcode, hwords hres⟩

end Sys2Proof.SetRateRuns
end

section
/-! PROOFS. The lines of a host program (30_encoding.md R70, R71): their accesses, the operand writes and `WAIT` as steps, and the run
of a `FIND_RATE` line. -/

namespace Sys2Proof.HostLines

open Sys2Proof.Machine Sys2Proof.Invariant

/-! ## The words of a line as numbers (R59, R65) -/

theorem lowWord_eq_ofNat (d : DWord) : lowWord d = BitVec.ofNat 32 (d.toNat % 2 ^ 32) := by
  apply BitVec.eq_of_toNat_eq
  simp only [lowWord, BitVec.extractLsb'_toNat, BitVec.toNat_ofNat, Nat.shiftRight_zero]
  omega

theorem highWord_eq_ofNat (d : DWord) : highWord d = BitVec.ofNat 32 (d.toNat / 2 ^ 32) := by
  apply BitVec.eq_of_toNat_eq
  simp only [highWord, BitVec.extractLsb'_toNat, BitVec.toNat_ofNat, Nat.shiftRight_eq_div_pow]

theorem cmdWord_eq_ofNat (opc : BitVec 4) (slot var : BitVec 2) (fld : BitVec 3) (auxp : Bool) :
    cmdWord opc slot var fld auxp =
      BitVec.ofNat 32 (opc.toNat + 16 * slot.toNat + 64 * var.toNat + 256 * fld.toNat + 2048 * auxp.toNat) := by
  rw [← Encoding.cmdWord_toNat, BitVec.ofNat_toNat, BitVec.setWidth_eq]

theorem argPair_eq (off : Nat) (d : DWord) : argPair off d =
    [.hostWrite off (BitVec.ofNat 32 (d.toNat % 2 ^ 32)), .hostWrite (off + 4) (BitVec.ofNat 32 (d.toNat / 2 ^ 32))] := by
  rw [argPair, lowWord_eq_ofNat, highWord_eq_ofNat]

/-! ## The accesses of a line as steps -/

section
variable {s : State} {ms : List Move} (hc : s.cfgChecked = true)
include hc

/-- The first operand of a line, in `ARG0` and `ARG1`. -/
theorem run_argPair_lo {d : DWord} (hsched : s.schedule = argPair 0x04 d ++ ms) :
    Host.Core.run Sys2Proof.core 2 s =
      .next { s with schedule := ms, arg0 := lowWord d, arg1 := highWord d } := by
  have hlo := Encoding.step_hostWrite hc hsched rfl
  have hhi := Encoding.step_hostWrite (off := 0x08) (v := highWord d) (ms := ms)
    (s := { s with schedule := .hostWrite 0x08 (highWord d) :: ms, arg0 := lowWord d }) hc rfl rfl
  exact (run_succ hlo).trans (run_succ hhi)

/-- The second operand of a line, in `ARG2` and `ARG3`. -/
theorem run_argPair_hi {d : DWord} (hsched : s.schedule = argPair 0x0C d ++ ms) :
    Host.Core.run Sys2Proof.core 2 s =
      .next { s with schedule := ms, arg2 := lowWord d, arg3 := highWord d } := by
  have hlo := Encoding.step_hostWrite hc hsched rfl
  have hhi := Encoding.step_hostWrite (off := 0x10) (v := highWord d) (ms := ms)
    (s := { s with schedule := .hostWrite 0x10 (highWord d) :: ms, arg2 := lowWord d }) hc rfl rfl
  exact (run_succ hlo).trans (run_succ hhi)

/-- The state after the read of `STATUS` that finds `BUSY = 1`, while the other agents have their turn. -/
def polled (s : State) (ms : List Move) : State := { s with hostData := s.statusWord, schedule := .wait :: ms }

/-- One turn of a `WAIT` on a sequencer that has a step: the read of `STATUS`, then the step. -/
theorem run_wait_turn {c : Instr} {t : State} (hsched : s.schedule = .wait :: ms) (hb : s.busy = true)
    (hen : s.seqEnabled = true) (hd : decode s.latch.word = .ok c) (hexec : exec c (polled s ms) = .next t) :
    Host.Core.run Sys2Proof.core 2 s = .next t := by
  have hen' : (polled s ms).seqEnabled = true := hen
  have hturn : step { polled s ms with schedule := .others :: .wait :: ms } = (polled s ms).othersStep :=
    step_move (s := { polled s ms with schedule := .others :: .wait :: ms }) hc rfl
  rw [State.othersStep, if_pos hen', Steps.seqStep_of_ok (s := polled s ms) hd, hexec] at hturn
  exact (run_succ (step_wait_busy hc hsched hb)).trans (run_succ hturn)

end

/-! ## A `FIND_RATE` line -/

/-- The state in which the command of a line with one 64-bit operand has been accepted. -/
def acceptedLine (s : State) (i : Instr) (d : DWord) : State :=
  State.accept { s with schedule := [.wait], arg0 := lowWord d, arg1 := highWord d } (encode i)

/-- That line's state after the first turn of its wait. -/
def decodedLine (s : State) (i : Instr) (d : DWord) : State := { polled (acceptedLine s i d) [] with phase := .exec }

/-- That line's state after the second turn of its wait, entry `n` found. -/
def foundLine (s : State) (i : Instr) (d : DWord) (n : Nat) : State :=
  { polled (decodedLine s i d) [] with
    code := 0, res0 := BitVec.ofNat 32 n, res1 := 0, res2 := 0, found := true, busy := false, phase := .idle }

theorem decode_acceptedLine (s : State) {i : Instr} (hwf : i.wf = true) (d : DWord) :
    decode (acceptedLine s i d).latch.word = .ok i :=
  Encoding.decode_encode hwf

section
variable {s : State} {var : BitVec 2} {hz : DWord} (halone : s.alone)
include halone

/-- The operand writes and the acceptance. -/
theorem run_findRateLine_accept (hb : s.busy = false) : Host.Core.run Sys2Proof.core 3 (s.load [.findRate var hz]) =
    .next (acceptedLine s (.findRate var) hz) := by
  obtain ⟨hchecked, hsched⟩ := halone
  have hargs := run_argPair_lo (s := s.load [.findRate var hz]) (d := hz) (ms := issue (.findRate var)) hchecked
    (by simp [State.load, hsched, Line.expand])
  have haccept := Encoding.step_cmd_idle (s := { s.load [.findRate var hz] with
    schedule := issue (.findRate var), arg0 := lowWord hz, arg1 := highWord hz }) hchecked rfl hb
  exact (run_add (k := 1) hargs).trans (run_succ haccept)

/-- The first turn of the wait: the `DECODE` step. -/
theorem run_findRateLine_decode : Host.Core.run Sys2Proof.core 2 (acceptedLine s (.findRate var) hz) =
    .next (decodedLine s (.findRate var) hz) :=
  run_wait_turn (s := acceptedLine s (.findRate var) hz) (ms := []) (c := .findRate var) halone.1 rfl rfl rfl
    (decode_acceptedLine s rfl hz)
    (Steps.exec_decode_of_lookup (s := polled (acceptedLine s (.findRate var) hz) []) rfl rfl rfl)

/-- The second turn: the search. -/
theorem run_findRateLine_exec {v : Variant} {n : Nat} {e : RateEntry} (hc : Config.wf s.cfg = true)
    (hv : Variant.ofBits var = some v) (hn : (s.cfg.rateTable.get v)[n]? = some e) (ht : e.target = hz) :
    Host.Core.run Sys2Proof.core 2 (decodedLine s (.findRate var) hz) = .next (foundLine s (.findRate var) hz n) := by
  have hfound : exec (.findRate var) (polled (decodedLine s (.findRate var) hz) []) =
      .next (foundLine s (.findRate var) hz n) :=
    Create.findRateGivesTheIndex _ var v n e hv rfl hc hn (ht.trans (join64_high_low hz).symm)
  exact run_wait_turn (s := decodedLine s (.findRate var) hz) (ms := []) halone.1 rfl rfl rfl (decode_acceptedLine s rfl hz) hfound

end

/-- Settles O45: the line is accepted, the waiting host gives the sequencer its two turns, and the read after them ends the
wait. -/
theorem findRateLineRuns : Obligations.FindRateLineRuns := by
  unfold Obligations.FindRateLineRuns
  intro s var v hz n e hinv halone hp hv hn ht
  have hidle : s.busy = false := Bool.eq_false_iff.mpr fun h => (controlOk_iff.mp hinv.control).1.mp h hp
  have hchecked := halone.1
  have hc := RecalcRate.config_wf_of_inv hinv hchecked
  have hend := step_wait_idle (s := foundLine s (.findRate var) hz n) (ms := []) hchecked rfl rfl
  have hrun := calc Host.Core.run Sys2Proof.core 8 (s.load [.findRate var hz])
    _ = Host.Core.run Sys2Proof.core 5 (acceptedLine s (.findRate var) hz) :=
      run_add (j := 3) (k := 5) (run_findRateLine_accept halone hidle)
    _ = Host.Core.run Sys2Proof.core 3 (decodedLine s (.findRate var) hz) := 
      run_add (j := 2) (k := 3) (run_findRateLine_decode halone)
    _ = Host.Core.run Sys2Proof.core 1 (foundLine s (.findRate var) hz n) := run_add (j := 2) (k := 1) (run_findRateLine_exec halone hc hv hn ht)
    _ = _ := run_succ hend
  exact ⟨_, hrun, ⟨rfl, rfl⟩, rfl, rfl, rfl, rfl, rfl, rfl, rfl⟩

/-! ## Every line -/

/-- Settles O60: the expansions number by number, `WAIT` by what the read of `STATUS` finds, and the two long lines access by
access. -/
theorem linesExpandToTheirAccesses : Obligations.LinesExpandToTheirAccesses := by
  unfold Obligations.LinesExpandToTheirAccesses
  intro lo hi cmd
  refine ⟨fun slot var fld d x raw val a => ?expansions, fun s ms hc => ?waits, fun s halone hb => ?accepted⟩
  case expansions =>
    simp only [Line.expand, argPair_eq, issue, encode, cmdWord_eq_ofNat]
    exact ⟨rfl, rfl, rfl, rfl, rfl, rfl, rfl, rfl, trivial, trivial⟩
  case waits =>
    refine ⟨fun hs hb => step_wait_idle hc hs hb, fun hs hb => step_wait_busy hc hs hb, fun hs hen hroom => ?_,
      fun hs hen hroom => ?_⟩
    · have hen' : State.seqEnabled { s with schedule := ms } = false := hen
      have hcan : State.canAdvance { s with schedule := ms } 1 = true := by simpa [State.canAdvance] using hroom
      obtain ⟨d, hd, hlt, htime⟩ := State.timePasses_next (s := { s with schedule := ms }) hroom
      refine ⟨d, hd, hlt, ?_⟩
      rw [step_move hc hs, State.runMove, State.othersStep, hen', if_neg Bool.false_ne_true, if_pos hcan, htime]
      rfl
    · have hen' : State.seqEnabled { s with schedule := ms } = false := hen
      have hcan : ¬ State.canAdvance { s with schedule := ms } 1 = true := by
        simp only [State.canAdvance, Bool.and_eq_true, decide_eq_true_eq]
        omega
      rw [step_move hc hs, State.runMove, State.othersStep, hen', if_neg Bool.false_ne_true, if_neg hcan]
  case accepted =>
    obtain ⟨hchecked, hsched⟩ := halone
    constructor
    · intro slot var d x hslot
      have hlo := run_argPair_lo (s := s.load [.createAux slot var d x]) (d := d)
        (ms := argPair 0x0C x ++ issue (.create slot var true)) hchecked (by simp [State.load, hsched, Line.expand])
      have hhi := run_argPair_hi (s := { s.load [.createAux slot var d x] with
        schedule := argPair 0x0C x ++ issue (.create slot var true), arg0 := lowWord d, arg1 := highWord d }) hchecked rfl
      have haccept := Encoding.step_cmd_idle (s := { s.load [.createAux slot var d x] with
        schedule := issue (.create slot var true), arg0 := lowWord d, arg1 := highWord d, arg2 := lowWord x,
        arg3 := highWord x }) hchecked rfl hb
      refine ⟨_, ((run_add (k := 3) hlo).trans (run_add (k := 1) hhi)).trans (run_succ haccept), rfl, rfl,
        Encoding.decode_encode (bne_iff_ne.mpr hslot), join64_high_low d, join64_high_low x, rfl, rfl, rfl⟩
    · intro var fld raw val hfld
      have harg0 := Encoding.step_hostWrite (s := s.load [.fieldInsert var fld raw val]) (off := 0x04) (v := raw)
        (ms := .hostWrite 0x08 val :: issue (.fieldInsert var fld)) hchecked
        (by simp [State.load, hsched, Line.expand]) rfl
      have harg1 := Encoding.step_hostWrite (s := { s.load [.fieldInsert var fld raw val] with
        schedule := .hostWrite 0x08 val :: issue (.fieldInsert var fld), arg0 := raw }) hchecked rfl rfl
      have haccept := Encoding.step_cmd_idle (s := { s.load [.fieldInsert var fld raw val] with
        schedule := issue (.fieldInsert var fld), arg0 := raw, arg1 := val }) hchecked rfl hb
      exact ⟨_, ((run_succ harg0).trans (run_succ harg1)).trans (run_succ haccept), rfl, rfl,
        Encoding.decode_encode (bne_iff_ne.mpr hfld), rfl, rfl, rfl, rfl, rfl⟩

end Sys2Proof.HostLines
end
